-- ==== Sys2Proof/Word.lean ====
section
/-!
DEFINITION. The block's elements and their widths (rule R6, rule R44): a byte is the
`u8` of every sequence operand, a nibble is what one hex character stands for
(rule R31), a character string is a sequence of abstract characters (rule R44, D18).
-/

namespace Sys2Proof

/-- A `u8`, bit 0 the least significant (rule R6). -/
abbrev Byte := BitVec 8

/-- Half a byte: `b[7:4]` or `b[3:0]` (rule R6). -/
abbrev Nibble := BitVec 4

/-- A character string: a finite sequence of abstract characters (rule R44). -/
abbrev Str := List Char

end Sys2Proof
end

