-- ==== Sys2Proof/Syntax.lean ====
section
/-!
DEFINITION. The abstract syntax: the operations and frame kinds of spec/opcode_table.json,
the typed operands of a transaction (rule R50) and what the host can present to the block.
-/

namespace Sys2Proof

/-- One constructor per row of spec/opcode_table.json. The first eleven are the operations of
rule R51 with their typed operands. The last five are the frame kinds of rule R54 and rule
R69: byte strings the serializer produces, each with the bytes its row's pattern leaves free,
in frame order. -/
inductive Instr where
  /-- `CRC bytes` (rule R82). -/
  | crc (bytes : List Byte)
  /-- `BLD.RD param` (rule R92). -/
  | bldRd (param : Byte)
  /-- `BLD.SV param, value`, `value` an `i32` (rule R93). -/
  | bldSv (param : Byte) (value : Int)
  /-- `BLD.SW param, on` (rule R94). -/
  | bldSw (param : Byte) (on : Bool)
  /-- `LIT.STATUS` (rule R95). -/
  | litStatus
  /-- `LIT.SETTINGS` (rule R96). -/
  | litSettings
  /-- `LIT.AUTOON` (rule R97). -/
  | litAutoOn
  /-- `LIT.AUTOOFF` (rule R98). -/
  | litAutoOff
  /-- `DEC.ST values` (rule R120). -/
  | decSt (values : List Byte)
  /-- `PRG.DEC bytes42` (rule R171). -/
  | prgDec (bytes42 : List Byte)
  /-- `PRG.ENC days` (rule R172). -/
  | prgEnc (days : List Str)
  /-- `FRAME.READ`: byte 5, the CRC byte, the ETX byte (rule R54). -/
  | frameRead (param crcByte etx : Byte)
  /-- `FRAME.SETPARAM`: byte 5, the two data bytes, the CRC byte, the ETX byte (rule R54). -/
  | frameSetParam (param lo hi crcByte etx : Byte)
  /-- `FRAME.SETSWITCH`: byte 5, the data byte, the CRC byte, the ETX byte (rule R54). -/
  | frameSetSwitch (param data crcByte etx : Byte)
  /-- `FRAME.STATUSQUERY`: the CRC byte, the ETX byte (rule R54, rule R95). -/
  | frameStatusQuery (crcByte etx : Byte)
  /-- `FRAME.SETTINGSQUERY`: the CRC byte, the ETX byte (rule R54, rule R96). -/
  | frameSettingsQuery (crcByte etx : Byte)
  deriving DecidableEq, Repr

/-- The five frame kinds of rule R69, in the order of spec/opcode_table.json. -/
inductive FrameKind where
  | read
  | setParam
  | setSwitch
  | statusQuery
  | settingsQuery
  deriving DecidableEq, Repr

/-- A typed operand of a transaction (rule R50). The spec fixes no bit-level packing of
operands, and this type has none. -/
inductive Operand where
  /-- A `u8`. -/
  | u8 (b : Byte)
  /-- An integer; an operand of type `i32` is one in -2147483648..2147483647 (rule R6). -/
  | i32 (v : Int)
  /-- A boolean. -/
  | flag (b : Bool)
  /-- A byte sequence with its length. -/
  | bytes (l : List Byte)
  /-- Character strings with their lengths. -/
  | strings (l : List Str)
  deriving DecidableEq, Repr

/-- What can be laid before the block. -/
inductive Request where
  /-- An operation transaction: the select code `OPSEL` and the operands (rule R50). -/
  | op (opsel : Byte) (operands : List Operand)
  /-- A frame's bytes. No transaction of the block carries one (rule R206); it stands here so
  that the frame rows of the opcode table can be presented, and be told apart (rule R69). -/
  | frame (bytes : List Byte)
  deriving DecidableEq, Repr

/-- Why a request stands for no instruction. Every one of them is safe: the model gives such
a request no meaning and changes no state. -/
inductive DecodeError where
  /-- `OPSEL` in 0x0B..0xFF (rule R63). -/
  | unknownOp (opsel : Byte)
  /-- The operands are not those rule R51 gives the operation: such a transaction cannot be
  presented (rule R50). -/
  | operandMismatch (opsel : Byte)
  /-- An integer operand outside the `i32` range (rule R6). -/
  | notI32 (value : Int)
  /-- The first eight bytes of a frame match no row of rule R69. -/
  | unknownFrame
  /-- A frame shorter than eight bytes, or whose length is not `10 + n` (rule R66). -/
  | frameLength
  deriving DecidableEq, Repr

end Sys2Proof
end

