-- ==== Sys2Proof/WellFormed.lean ====
section
/-!
DEFINITION. What an instruction's fields must satisfy beyond their types: the range of an
`i32` operand (rule R6), and the fixed bytes behind a frame row's pattern (rule R52).
-/

namespace Sys2Proof

/-- An integer of type `i32` (rule R6). -/
def isI32 (v : Int) : Bool := decide (-2147483648 ≤ v) && decide (v ≤ 2147483647)

/-- A frame ends with ETX = 0x03 (rule R53). -/
def isEtx (b : Byte) : Bool := b == 0x03

/-- The SetSwitch data byte is 0x01 or 0x00 (rule R58). -/
def isSwitchByte (b : Byte) : Bool := b == 0x00 || b == 0x01

/-- The well-formed instructions. An operation's only restriction beyond its operand types is
the `i32` range; the two query literals carry the CRC bytes they are printed with (rule R95,
rule R96). -/
def Instr.wellFormed (i : Instr) : Bool :=
  match i with
  | .crc _ => true
  | .bldRd _ => true
  | .bldSv _ value => isI32 value
  | .bldSw _ _ => true
  | .litStatus => true
  | .litSettings => true
  | .litAutoOn => true
  | .litAutoOff => true
  | .decSt _ => true
  | .prgDec _ => true
  | .prgEnc _ => true
  | .frameRead _ _ etx => isEtx etx
  | .frameSetParam _ _ _ _ etx => isEtx etx
  | .frameSetSwitch _ data _ etx => isSwitchByte data && isEtx etx
  | .frameStatusQuery crcByte etx => crcByte == 0x61 && isEtx etx
  | .frameSettingsQuery crcByte etx => crcByte == 0x24 && isEtx etx

end Sys2Proof
end

