-- ==== Sys2Proof/Decode.lean ====
section
/-!
DEFINITION. From a presented request to an instruction, and back. A transaction is an 8-bit
select code with typed operands (rule R50, rule R51); a frame is told by the 64-bit patterns
of rule R69. Both directions are written from the same tables of the spec.
-/

namespace Sys2Proof

/-- The `match` column of the five FRAME rows: frame bytes 0 to 7, byte 0 the most
significant (rule R69). -/
def frameMatch (k : FrameKind) : BitVec 64 :=
  match k with
  | .read => 0x0201000100000000
  | .setParam => 0x0201000200000200
  | .setSwitch => 0x0201000500000100
  | .statusQuery => 0x0201000600000000
  | .settingsQuery => 0x0201000500160000

/-- The `mask` column of the five FRAME rows (rule R69): byte 5, the parameter id, is free
in the three kinds the builders make. -/
def frameMask (k : FrameKind) : BitVec 64 :=
  match k with
  | .read => 0xFFFFFFFFFF00FFFF
  | .setParam => 0xFFFFFFFFFF00FFFF
  | .setSwitch => 0xFFFFFFFFFF00FFFF
  | .statusQuery => 0xFFFFFFFFFFFFFFFF
  | .settingsQuery => 0xFFFFFFFFFFFFFFFF

/-- Every frame kind, in table order. -/
def frameKinds : List FrameKind := [.read, .setParam, .setSwitch, .statusQuery, .settingsQuery]

/-- "A frame is of the row's kind when `(first8 & mask) = match`" (rule R69). -/
def frameIsKind (first8 : BitVec 64) (k : FrameKind) : Bool :=
  first8 &&& frameMask k == frameMatch k

/-- The kind of a frame, by its first eight bytes. -/
def classifyFrame (first8 : BitVec 64) : Option FrameKind :=
  frameKinds.find? (frameIsKind first8)

/-- Frame bytes 0 to 7 as one number, byte 0 in the most significant position (rule R69). -/
def packFirst8 (b0 b1 b2 b3 b4 b5 b6 b7 : Byte) : BitVec 64 :=
  b0 ++ (b1 ++ (b2 ++ (b3 ++ (b4 ++ (b5 ++ (b6 ++ b7))))))

/-- What stands behind byte 7 of a frame of a given kind: DATA, the CRC byte and ETX
(rule R52), `n + 2` bytes (rule R66). -/
def decodeFrameTail (k : FrameKind) (param : Byte) (tail : List Byte) : Except DecodeError Instr :=
  match k, tail with
  | .read, [crcByte, etx] => .ok (.frameRead param crcByte etx)
  | .setParam, [lo, hi, crcByte, etx] => .ok (.frameSetParam param lo hi crcByte etx)
  | .setSwitch, [data, crcByte, etx] => .ok (.frameSetSwitch param data crcByte etx)
  | .statusQuery, [crcByte, etx] => .ok (.frameStatusQuery crcByte etx)
  | .settingsQuery, [crcByte, etx] => .ok (.frameSettingsQuery crcByte etx)
  | _, _ => .error .frameLength

/-- A frame's bytes as a row of the opcode table (rule R69, rule R52). -/
def decodeFrame (bytes : List Byte) : Except DecodeError Instr :=
  match bytes with
  | b0 :: b1 :: b2 :: b3 :: b4 :: b5 :: b6 :: b7 :: tail =>
    match classifyFrame (packFirst8 b0 b1 b2 b3 b4 b5 b6 b7) with
    | some k => decodeFrameTail k b5 tail
    | none => .error .unknownFrame
  | _ => .error .frameLength

/-- A transaction as an operation, by the select codes and operand types of rule R51.
`OPSEL` 0x0B..0xFF is unassigned (rule R63). -/
def decodeOp (opsel : Byte) (operands : List Operand) : Except DecodeError Instr :=
  match opsel.toNat, operands with
  | 0x00, [.bytes bytes] => .ok (.crc bytes)
  | 0x01, [.u8 param] => .ok (.bldRd param)
  | 0x02, [.u8 param, .i32 value] =>
    if isI32 value then .ok (.bldSv param value) else .error (.notI32 value)
  | 0x03, [.u8 param, .flag on] => .ok (.bldSw param on)
  | 0x04, [] => .ok .litStatus
  | 0x05, [] => .ok .litSettings
  | 0x06, [] => .ok .litAutoOn
  | 0x07, [] => .ok .litAutoOff
  | 0x08, [.bytes values] => .ok (.decSt values)
  | 0x09, [.bytes bytes42] => .ok (.prgDec bytes42)
  | 0x0A, [.strings days] => .ok (.prgEnc days)
  | n, _ => if n ≤ 0x0A then .error (.operandMismatch opsel) else .error (.unknownOp opsel)

/-- The decoder, total on every request. -/
def decode (r : Request) : Except DecodeError Instr :=
  match r with
  | .op opsel operands => decodeOp opsel operands
  | .frame bytes => decodeFrame bytes

/-- Bytes 0 to 7 of a frame with command `cmd`, parameter byte `cmd3` and a data length below
256 (rule R52, rule R53, rule R61). -/
def frameHead (cmd cmd3 len : Byte) : List Byte :=
  [0x02, 0x01, 0x00, cmd, 0x00, cmd3, len, 0x00]

/-- The encoder: the transaction of an operation (rule R51), the bytes of a frame (rule R52,
rule R54). -/
def encode (i : Instr) : Request :=
  match i with
  | .crc bytes => .op 0x00 [.bytes bytes]
  | .bldRd param => .op 0x01 [.u8 param]
  | .bldSv param value => .op 0x02 [.u8 param, .i32 value]
  | .bldSw param on => .op 0x03 [.u8 param, .flag on]
  | .litStatus => .op 0x04 []
  | .litSettings => .op 0x05 []
  | .litAutoOn => .op 0x06 []
  | .litAutoOff => .op 0x07 []
  | .decSt values => .op 0x08 [.bytes values]
  | .prgDec bytes42 => .op 0x09 [.bytes bytes42]
  | .prgEnc days => .op 0x0A [.strings days]
  | .frameRead param crcByte etx => .frame (frameHead 0x01 param 0x00 ++ [crcByte, etx])
  | .frameSetParam param lo hi crcByte etx => .frame (frameHead 0x02 param 0x02 ++ [lo, hi, crcByte, etx])
  | .frameSetSwitch param data crcByte etx => .frame (frameHead 0x05 param 0x01 ++ [data, crcByte, etx])
  | .frameStatusQuery crcByte etx => .frame (frameHead 0x06 0x00 0x00 ++ [crcByte, etx])
  | .frameSettingsQuery crcByte etx => .frame (frameHead 0x05 0x16 0x00 ++ [crcByte, etx])

/-- The operands of an operation whose operand words are all zero: zero, false and the empty
sequences. The table gives operands no bits (rule R50), so this is all a table word says of
them (assumption 6). -/
def zeroOperands (opsel : Byte) : List Operand :=
  match opsel.toNat with
  | 0x00 => [.bytes []]
  | 0x01 => [.u8 0]
  | 0x02 => [.u8 0, .i32 0]
  | 0x03 => [.u8 0, .flag false]
  | 0x08 => [.bytes []]
  | 0x09 => [.bytes []]
  | 0x0A => [.strings []]
  | _ => []

/-- Byte `k` of a 64-bit FRAME word, byte 0 the most significant (rule R69). -/
def frameWordByte (w k : Nat) : Byte := BitVec.ofNat 8 (w >>> (8 * (7 - k)))

/-- The request a table word stands for: an 8-bit OP word is a select code with zero operands,
a 64-bit FRAME word is the first eight bytes of a frame, followed by as many zero bytes as its
`LEN` asks for, a zero CRC byte and a zero ETX byte (rule R66). The table has no other width;
the empty frame, which stands for no instruction, answers one. -/
def requestOfTableWord (nbits w : Nat) : Request :=
  if nbits = 8 then .op (BitVec.ofNat 8 w) (zeroOperands (BitVec.ofNat 8 w))
  else if nbits = 64 then
    .frame ((List.range 8).map (frameWordByte w) ++
      List.replicate ((frameWordByte w 6).toNat + 256 * (frameWordByte w 7).toNat + 2) 0)
  else .frame []

/-- The instruction the decoder reads from a row's word. -/
def decodeTableWord (nbits w : Nat) : Option Instr :=
  match decode (requestOfTableWord nbits w) with
  | .ok i => some i
  | .error _ => none

end Sys2Proof
end

