-- ==== Sys2Proof/Config.lean ====
section
/-!
DEFINITION. The implementation parameters of rule R5 that are not fixed by the spec, and the
values the spec leaves free. `Params` is what the model takes as an argument: it is held in
the state, no step changes it, and a claim over every state is a claim over every choice of
it. The three opaque constants have no body: nothing can be proved of their values.
-/

namespace Sys2Proof

/-- The parameters a platform fixes (rule R5). They are the block's read-only memories
(rule R18, rule R19) and the bound on operand lengths (rule R44). -/
structure Params where
  /-- `TABLE`, a read-only memory of 256 entries of 8 bits (rule R18). -/
  table : Vector Byte 256
  /-- `LIT_AUTO_ON` as the hex digits it is written with: the only thing a model may assume
  of it is that it is a string over the hex alphabet (rule R97), which this type says. -/
  litAutoOn : List Nibble
  /-- `LIT_AUTO_OFF`, likewise (rule R98). -/
  litAutoOff : List Nibble
  /-- `NMAX`, the longest sequence operand; `none` is unbounded, the default (rule R44, D25). -/
  nmax : Option Nat
  deriving DecidableEq, Repr

/-- `LIT_AUTO_ON` of the machine at reset: OPEN, described by the source and never printed
(rule R97, D3). DESIGN CHOICE (assumption 3): an opaque constant. -/
opaque Config.litAutoOn : List Nibble

/-- `LIT_AUTO_OFF` of the machine at reset: OPEN (rule R98, D3). DESIGN CHOICE
(assumption 3): an opaque constant. -/
opaque Config.litAutoOff : List Nibble

/-- `round_tie`: which of `q`, `q + 1` the n-th draw of rule R150 takes (`true` is `q + 1`).
OPEN, a draw (D9). DESIGN CHOICE (assumption 4): an opaque constant applied to the number of
draws made so far and to the seconds that are rounded. -/
opaque Config.roundTie : Nat → BitVec 32 → Bool

end Sys2Proof
end

