-- ==== Sys2Proof/Machine/State.lean ====
section
/-!
DEFINITION. The state of the block (rule R10): `ST`, `RES`, `ACC`; the read-only constants the
operations read (rule R18, rule R19); and two fields of the model's own, the host's list of
events still to come and the number of draws made. Plain data throughout.
-/

namespace Sys2Proof.Machine

/-- The failure codes an operation can end with (rule R190). -/
inductive Failure where
  /-- `DEC.ST` with fewer than 86 elements (rule R191). -/
  | tooShort
  /-- `PRG.DEC`, `PRG.ENC` with a wrong-shaped input (rule R193). -/
  | badLength
  /-- `PRG.ENC` with a character other than `'0'`, `'1'` (rule R194). -/
  | badChar
  deriving DecidableEq, Repr

/-- The closed set of values of `ST` (rule R190): `OK`, or a failure. -/
inductive Status where
  | ok
  | failed (f : Failure)
  deriving DecidableEq, Repr

/-- A six-component date (rule R143). -/
structure DateTime where
  year : Nat
  month : Nat
  day : Nat
  hour : Nat
  minute : Nat
  second : Nat
  deriving DecidableEq, Repr

/-- A five-component date (rule R151). -/
structure LoadDate where
  year : Nat
  month : Nat
  day : Nat
  hour : Nat
  minute : Nat
  deriving DecidableEq, Repr

/-- The StatusRecord `REC`, field by field in the order of rule R17. Temperatures are signed
counts of tenths of a degree (rule R123, D8), the feeder minutes a count of tenths of a minute
(rule R150). -/
structure StatusRecord where
  sensorHealth : Vector Byte 8
  sensorTemp : Vector Int 8
  output : Vector Bool 8
  heatingState : Byte
  autoMode : Bool
  setpointMode : Byte
  cwuMode : Byte
  targetBoilerTemp : Byte
  targetDhwTemp : Byte
  airPumpPower : Byte
  alarmsRaw : BitVec 16
  alarmActive : Bool
  mixerCircuit : Byte
  authLevel : Byte
  datetime : Option DateTime
  coLoweredActive : Bool
  cwuLoweredActive : Bool
  roomHeating : Byte
  internalSetpoint : Byte
  dayNight : Byte
  roomDayTemp : Int
  roomNightTemp : Int
  loweredAmount0 : Byte
  loweredAmount1 : Byte
  inputsRaw : Byte
  alarms2Raw : BitVec 16
  feederRuntimeS : BitVec 32
  feederRuntimeMinTenths : Nat
  fuelLoadDate : Option LoadDate
  fuelRemaining : BitVec 24
  fuelLoadPct : Byte
  feedingPct : Byte
  floorDayTemp : Int
  floorNightTemp : Int
  floorDayNight : Byte
  isSummer : Bool
  deriving DecidableEq, Repr

/-- The typed values `RES` can hold (rule R11). -/
inductive Result where
  | crc8 (c : Byte)
  | hex (h : Str)
  | record (r : StatusRecord)
  | days (d : List Str)
  | bytes (p : List Byte)
  deriving DecidableEq, Repr

/-- What the host does to the block, one event at a time (rule R225). -/
inductive HostEvent where
  /-- It issues a transaction (rule R50). -/
  | issue (r : Request)
  /-- It reads `RES` (rule R13). -/
  | readRes
  /-- It reads `ST` (rule R12). -/
  | readSt
  /-- It applies reset, between operations (rule R220). -/
  | reset
  deriving DecidableEq, Repr

/-- The machine's state. -/
structure State where
  /-- `ST`, the status of the last operation (rule R10, rule R12). -/
  st : Status
  /-- `RES`, the result of the last operation, or none (rule R10, rule R11). -/
  res : Option Result
  /-- `ACC`, the 8-bit CRC accumulator, hidden (rule R22). -/
  acc : Byte
  /-- The constants: `TABLE`, the OPEN literals, the operand bound (rule R18, rule R19). -/
  params : Params
  /-- The MODEL's own field: the host's events still to come, the next one first. The position
  in the host's list is host state (rule R14); assumption 5. -/
  host : List HostEvent
  /-- The MODEL's own field: how many draws of rule R150 have been made; assumption 4. -/
  draws : Nat
  deriving DecidableEq, Repr

/-- Faults: there are none. Every failure the spec describes is a value of `ST` in a next
state (rule R200), and "the model must not contain an out-of-bounds outcome" (rule R38).
Nobody raises one; that the type is empty is safe. -/
inductive Fault where
  deriving DecidableEq, Repr

/-- Refusals: what has no meaning in the model and writes no state (rule R196). Each is safe:
no claim about what follows can be proved. -/
inductive Refusal where
  /-- An instruction without a meaning yet; raised by no arm of this model. Safe. -/
  | notModelled (mnemonic : String)
  /-- `ValueOutOfRange`, raised by `BLD.SV` outside -32768..65535 (rule R93, rule R196). Safe. -/
  | valueOutOfRange (value : Int)
  /-- `UnknownOp`, raised for `OPSEL` in 0x0B..0xFF (rule R63, rule R196). Safe. -/
  | unknownOp (opsel : Byte)
  /-- `EmptyRead`, raised by a host read of `RES` while it holds none (rule R13, rule R196).
  Safe. -/
  | emptyRead
  /-- Raised for a transaction whose operands are not of the types rule R51 gives the
  operation: it cannot be presented to the block (rule R50). Safe. -/
  | operandMismatch (opsel : Byte)
  /-- Raised for an integer operand outside the `i32` range: it cannot be presented
  (rule R6, rule R50). Safe. -/
  | notI32 (value : Int)
  /-- Raised for a sequence operand longer than `NMAX`: it cannot be presented (rule R44).
  Safe. -/
  | operandTooLong
  /-- Raised when a frame is laid before the block: a frame is a command to the furnace, no
  transaction of the block (rule R206, rule R62, U17). Safe. -/
  | frameIsNoTransaction
  /-- Raised when a byte string that is no frame of rule R69 is laid before the block. Safe. -/
  | notAFrame
  deriving DecidableEq, Repr

/-- The state right after reset (rule R23, rule R220): `ST` = `OK`, `RES` = none, the
constants at their content. `ACC` is unspecified by the spec: 0 is the model's value, DESIGN
CHOICE (assumption 1). No event of the host is pending and no draw has been made. -/
def State.reset : State where
  st := .ok
  res := none
  acc := 0
  params := defaultParams
  host := []
  draws := 0

end Sys2Proof.Machine
end

