-- ==== Sys2Proof/Machine/Ops.lean ====
section
/-!
DEFINITION. The operations over the state that every meaning is written with: how an operation
ends with a result, how it ends with a failure (the block's one kind of exception, rule R200),
what reset does, what the host reads, and the bound on operand lengths.
-/

namespace Sys2Proof.Machine

open Sys2Proof

/-- An operation ends with a result: `RES <- r`, `ST <- OK` (rule R12, rule R190). -/
def complete (r : Result) (s : State) : State :=
  { s with st := .ok, res := some r }

/-- `raise F` (rule R200): `ST <- F` and `RES <- none`; "no state is saved, because there is
none to save". There is no return beside it: "after a failure the very next transaction runs
exactly as it would after a success" (rule R202). -/
def raise (f : Failure) (s : State) : State :=
  { s with st := .failed f, res := none }

/-- The reset event (rule R220): every piece of state gets the reset value of rule R23, the
constants stay (rule R221). The host's remaining events and the number of draws are not the
block's and stay too. -/
def applyReset (s : State) : State :=
  { s with st := State.reset.st, res := State.reset.res, acc := State.reset.acc }

/-- A host read of `RES`: its value, or the refusal `EmptyRead` while it holds none
(rule R13, rule R196). -/
def readRes (s : State) : Except Refusal Result :=
  match s.res with
  | some r => .ok r
  | none => .error .emptyRead

/-- A host read of `ST` (rule R12). -/
def readSt (s : State) : Status := s.st

/-- The lengths of an instruction's sequence operands: the sequence's own, and for a sequence
of strings each string's too (rule R44). DESIGN CHOICE (assumption 13): every sequence operand
counts, as rule R44 and U18 say, although D25 adds "only `CRC` is affected by a bound". -/
def operandLengths (i : Instr) : List Nat :=
  match i with
  | .crc bytes => [bytes.length]
  | .decSt values => [values.length]
  | .prgDec bytes42 => [bytes42.length]
  | .prgEnc days => days.length :: days.map List.length
  | .bldRd _ => []
  | .bldSv _ _ => []
  | .bldSw _ _ => []
  | .litStatus => []
  | .litSettings => []
  | .litAutoOn => []
  | .litAutoOff => []
  | .frameRead _ _ _ => []
  | .frameSetParam _ _ _ _ _ => []
  | .frameSetSwitch _ _ _ _ => []
  | .frameStatusQuery _ _ => []
  | .frameSettingsQuery _ _ => []

/-- Whether an instruction's operands can be presented under the bound `NMAX` (rule R44, U18).
DESIGN CHOICE (assumption 13): the bound holds for `DEC.ST`, `PRG.DEC` and `PRG.ENC` as for
`CRC`, against the last sentence of D25. -/
def fitsBound (nmax : Option Nat) (i : Instr) : Bool :=
  match nmax with
  | none => true
  | some n => (operandLengths i).all (fun l => decide (l ≤ n))

/-- The refusal of a request that stands for no instruction (rule R63, rule R196). -/
def refusalOf (e : DecodeError) : Refusal :=
  match e with
  | .unknownOp opsel => .unknownOp opsel
  | .operandMismatch opsel => .operandMismatch opsel
  | .notI32 value => .notI32 value
  | .unknownFrame => .notAFrame
  | .frameLength => .notAFrame

end Sys2Proof.Machine
end

