-- ==== Sys2Proof/Machine/Crc.lean ====
section
/-!
DEFINITION. The CRC lookup engine (rule R80, rule R81) and the operation `CRC` (rule R82).
-/

namespace Sys2Proof.Machine

open Sys2Proof

/-- `crc_step(acc, b) = TABLE[acc xor b]` (rule R80). -/
def crcStep (table : Vector Byte 256) (acc b : Byte) : Byte :=
  table[(acc ^^^ b).toNat]'(acc ^^^ b).isLt

/-- `crc(bytes)` as a function: the left fold of the step from 0 (rule R81). -/
def crc (table : Vector Byte 256) (bytes : List Byte) : Byte :=
  bytes.foldl (crcStep table) 0

/-- One turn of the engine's loop: `ACC <- TABLE[ACC xor b]` (rule R81). -/
def accStep (s : State) (b : Byte) : State :=
  { s with acc := crcStep s.params.table s.acc b }

/-- The engine at work (rule R81, rule R22): `ACC <- 0`, then one turn per byte in index
order; the CRC is what `ACC` holds at the end. -/
def runCrc (bytes : List Byte) (s : State) : State :=
  bytes.foldl accStep { s with acc := 0 }

/-- `CRC bytes` (rule R82). -/
def execCrc (bytes : List Byte) (s : State) : Host.Outcome State Fault Refusal :=
  let t := runCrc bytes s
  .next (complete (.crc8 t.acc) t)

end Sys2Proof.Machine
end

