-- ==== Sys2Proof/Machine/Flags.lean ====
section
/-!
DEFINITION. The flag-like items of the block (rule R15): the numeric codes of `ST`
(rule R190), the byte predicates behind the derived booleans (rule R126, rule R127) and the
calendar test behind the optional dates (rule R128). The block has no arithmetic flags.
-/

namespace Sys2Proof.Machine

open Sys2Proof

/-- The numeric code of a status (rule R190). -/
def statusCode (s : Status) : Nat :=
  match s with
  | .ok => 0
  | .failed .tooShort => 1
  | .failed .badLength => 2
  | .failed .badChar => 3

/-- `nonzero(b)`: true for 1..255 (rule R127). -/
def nonzero (b : Byte) : Bool := b != 0

/-- `nonzero` on the 16-bit alarm value (rule R127, rule R140). -/
def nonzero16 (w : BitVec 16) : Bool := w != 0

/-- `isone(b)`: true for 1 only (rule R127). -/
def isone (b : Byte) : Bool := b == 1

/-- `bit(b, i) = ((b >> i) & 1) = 1` (rule R126). -/
def bit (b : Byte) (i : Nat) : Bool := (b >>> i) &&& 1 == 1

/-- `leap(Y)` (rule R128). -/
def leap (year : Nat) : Bool := (year % 4 == 0 && year % 100 != 0) || year % 400 == 0

/-- `dim(Y, mo)`: the days of a month 1..12 (rule R128). -/
def daysInMonth (year month : Nat) : Nat :=
  if month = 2 then (if leap year then 29 else 28)
  else if month = 4 ∨ month = 6 ∨ month = 9 ∨ month = 11 then 30
  else 31

/-- `valid_date(Y, mo, d, h, mi, s)` (rule R128, D10). -/
def validDate (year month day hour minute second : Nat) : Bool :=
  decide (1 ≤ month) && decide (month ≤ 12) &&
  decide (1 ≤ day) && decide (day ≤ daysInMonth year month) &&
  decide (hour ≤ 23) && decide (minute ≤ 59) && decide (second ≤ 59)

end Sys2Proof.Machine
end

