-- ==== Sys2Proof/Machine/Operands.lean ====
section
/-!
DEFINITION. Operand forms: how the elements of an operand are read (rule R37, rule R38) and
combined (rule R121 to rule R128, rule R150), how a `BLD` operand becomes data bytes
(rule R57, rule R58), the LEN bytes (rule R56), and the map of the weekly program (rule R170).
-/

namespace Sys2Proof.Machine

open Sys2Proof

/-- The first 86 elements of a status reply, after the length test (rule R38): every read at
a fixed offset below 86 is within its bounds by its type. -/
abbrev Payload := Vector Byte 86

/-- The elements 0..85 of a reply of sufficient length; the rest is ignored (rule R39). -/
def payloadOf (values : List Byte) (h : 86 ≤ values.length) : Payload :=
  ⟨(values.take 86).toArray, by simp; omega⟩

/-- The 42 bytes of a weekly program, after the length test (rule R38). -/
abbrev Bitmap := Vector Byte 42

/-- A byte sequence of exactly 42 elements as a bitmap. -/
def bitmapOf (bytes42 : List Byte) (h : bytes42.length = 42) : Bitmap :=
  ⟨bytes42.toArray, by simpa using h⟩

/-- `u16le(lo, hi) = lo | (hi << 8)` (rule R121). -/
def u16le (lo hi : Byte) : BitVec 16 := lo.setWidth 16 ||| (hi.setWidth 16 <<< 8)

/-- `sext_16(u)` (rule R7): "if result > 32767, subtract 65536". -/
def sext16 (u : BitVec 16) : Int :=
  let result : Int := u.toNat
  if result > 32767 then result - 65536 else result

/-- `s16le(lo, hi)` (rule R122). -/
def s16le (lo hi : Byte) : Int := sext16 (u16le lo hi)

/-- `temp16(lo, hi)`, a signed count of tenths of a degree (rule R123). -/
def temp16 (lo hi : Byte) : Int := s16le lo hi

/-- `u32le(b0, b1, b2, b3)` (rule R124). -/
def u32le (b0 b1 b2 b3 : Byte) : BitVec 32 :=
  b0.setWidth 32 ||| (b1.setWidth 32 <<< 8) ||| (b2.setWidth 32 <<< 16) ||| (b3.setWidth 32 <<< 24)

/-- `u24split(b0, b1, b2)` (rule R125). -/
def u24split (b0 b1 b2 : Byte) : BitVec 24 :=
  b0.setWidth 24 ||| (b1.setWidth 24 <<< 8) ||| (b2.setWidth 24 <<< 16)

/-- `date6` (rule R128): the six components, or none where the calendar test fails. -/
def date6 (y mo d h mi s : Byte) : Option DateTime :=
  if validDate (2000 + y.toNat) mo.toNat d.toNat h.toNat mi.toNat s.toNat then
    some { year := 2000 + y.toNat, month := mo.toNat, day := d.toNat,
           hour := h.toNat, minute := mi.toNat, second := s.toNat }
  else none

/-- `date5 = date6` with second 0, as five components (rule R128). -/
def date5 (y mo d h mi : Byte) : Option LoadDate :=
  match date6 y mo d h mi 0 with
  | some t => some { year := t.year, month := t.month, day := t.day,
                     hour := t.hour, minute := t.minute }
  | none => none

/-- Whether the feeder minutes of `secs` seconds lie on a rounding tie (rule R150). -/
def isTie (secs : BitVec 32) : Bool := secs.toNat % 6 == 3

/-- `feeder_runtime_min_tenths` (rule R150): the nearest integer to `secs / 6`, and at a tie
the upper neighbour exactly when the draw `up` says so. -/
def minuteTenths (secs : BitVec 32) (up : Bool) : Nat :=
  let q := secs.toNat / 6
  let r := secs.toNat % 6
  if r ≤ 2 then q
  else if r = 3 then (if up then q + 1 else q)
  else q + 1

/-- Whether `BLD.SV` admits a value (rule R93). -/
def valueAdmitted (value : Int) : Bool := decide (-32768 ≤ value) && decide (value ≤ 65535)

/-- `u = value mod 65536`, floored (rule R57, rule R8). -/
def foldValue (value : Int) : Nat := (value % 65536).toNat

/-- The two data bytes of SetParam, low byte first (rule R57). -/
def valueData (value : Int) : List Byte :=
  [BitVec.ofNat 8 (foldValue value &&& 0xFF), BitVec.ofNat 8 (foldValue value >>> 8)]

/-- The one data byte of SetSwitch (rule R58). -/
def switchData (on : Bool) : List Byte := [if on then 0x01 else 0x00]

/-- `LEN_LO`, `LEN_HI` of a data sequence (rule R56). -/
def lenBytes (data : List Byte) : List Byte :=
  [BitVec.ofNat 8 (data.length &&& 0xFF), BitVec.ofNat 8 (data.length >>> 8)]

/-- `k(d, s) = 6*d + (s div 8)`, the byte of slot `s` of day `d` (rule R170). -/
def slotByte (d s : Nat) : Nat := 6 * d + s / 8

/-- `n(s) = s mod 8`, the bit of slot `s` (rule R170). -/
def slotBit (s : Nat) : Nat := s % 8

/-- Whether slot `s` of day `d` of a day-string set is `'1'` (rule R170): the character at
index `s` of day-string `d`. -/
def slotSet (days : List Str) (d s : Nat) : Bool :=
  match days[d]? with
  | some day => day[s]? == some '1'
  | none => false

end Sys2Proof.Machine
end

