-- ==== Sys2Proof/Machine/Frame.lean ====
section
/-!
DEFINITION. The frame serializer: general assembly (rule R90), hex serialization (rule R91),
the three builders (rule R92 to rule R94) and the four literal frames (rule R95 to rule R98).
-/

namespace Sys2Proof.Machine

open Sys2Proof

/-- `HEXDIGIT(0..15)`, lowercase (rule R31). -/
def hexDigit (n : Nibble) : Char :=
  match n.toNat with
  | 0 => '0' | 1 => '1' | 2 => '2' | 3 => '3'
  | 4 => '4' | 5 => '5' | 6 => '6' | 7 => '7'
  | 8 => '8' | 9 => '9' | 10 => 'a' | 11 => 'b'
  | 12 => 'c' | 13 => 'd' | 14 => 'e' | _ => 'f'

/-- The two characters of a byte, the high nibble first (rule R31). -/
def hexByte (b : Byte) : Str :=
  [hexDigit ((b >>> 4).setWidth 4), hexDigit ((b &&& 15).setWidth 4)]

/-- `hexstr(f)`: "lowercase hex, two characters per byte, no separators" (rule R91). -/
def hexStr (f : List Byte) : Str := f.flatMap hexByte

/-- The bytes a frame's CRC covers, byte 1 to byte `7 + n` (rule R60): `ADDR`, `SUBADDR`,
`CMD`, `CMD2`, `CMD3`, `LEN`, DATA. -/
def frameBody (cmd cmd2 cmd3 : Byte) (data : List Byte) : List Byte :=
  [addr, subaddr, cmd, cmd2, cmd3] ++ lenBytes data ++ data

/-- STX before the body, the CRC byte and ETX after it (rule R52). -/
def wrapFrame (body : List Byte) (crcByte : Byte) : List Byte :=
  [stx] ++ body ++ [crcByte, etx]

/-- `frame_bytes(cmd, cmd2, cmd3, data)` for `len(data) <= 65535` (rule R90); internal, no
operation exposes it (rule R62). -/
def frameBytes (table : Vector Byte 256) (cmd cmd2 cmd3 : Byte) (data : List Byte) : List Byte :=
  wrapFrame (frameBody cmd cmd2 cmd3 data) (crc table (frameBody cmd cmd2 cmd3 data))

/-- What the three builders share (rule R92 to rule R94): assemble with `CMD2` = 0x00
(rule R61), run the CRC engine over the body, leave the hex string in `RES`. -/
def buildFrame (cmd param : Byte) (data : List Byte) (s : State) : State :=
  let body := frameBody cmd 0x00 param data
  let t := runCrc body s
  complete (.hex (hexStr (wrapFrame body t.acc))) t

/-- `BLD.RD param` (rule R92): Read, `CMD` = 0x01, no data. -/
def execBldRd (param : Byte) (s : State) : Host.Outcome State Fault Refusal :=
  .next (buildFrame 0x01 param [] s)

/-- `BLD.SV param, value` (rule R93): SetParam, `CMD` = 0x02, two data bytes; refused outside
-32768..65535, before anything is built (rule R198). -/
def execBldSv (param : Byte) (value : Int) (s : State) : Host.Outcome State Fault Refusal :=
  if valueAdmitted value then .next (buildFrame 0x02 param (valueData value) s)
  else .refused (.valueOutOfRange value)

/-- `BLD.SW param, on` (rule R94): SetSwitch, `CMD` = 0x05, one data byte. -/
def execBldSw (param : Byte) (on : Bool) (s : State) : Host.Outcome State Fault Refusal :=
  .next (buildFrame 0x05 param (switchData on) s)

/-- `LIT.STATUS` (rule R95): the literal the spec prints. -/
def execLitStatus (s : State) : Host.Outcome State Fault Refusal :=
  .next (complete (.hex litStatusString) s)

/-- `LIT.SETTINGS` (rule R96): the literal the spec prints. -/
def execLitSettings (s : State) : Host.Outcome State Fault Refusal :=
  .next (complete (.hex litSettingsString) s)

/-- `LIT.AUTOON` (rule R97): the OPEN parameter, a string over the hex alphabet. -/
def execLitAutoOn (s : State) : Host.Outcome State Fault Refusal :=
  .next (complete (.hex (s.params.litAutoOn.map hexDigit)) s)

/-- `LIT.AUTOOFF` (rule R98): the OPEN parameter, a string over the hex alphabet. -/
def execLitAutoOff (s : State) : Host.Outcome State Fault Refusal :=
  .next (complete (.hex (s.params.litAutoOff.map hexDigit)) s)

end Sys2Proof.Machine
end

