-- ==== Sys2Proof/Machine/FrameKinds.lean ====
section
/-!
DEFINITION. The five FRAME rows of the opcode table, laid before the block. "The eleven
operations are the whole set" (rule R206); "the block itself never classifies a frame"
(rule R69) and "never decodes a frame" (rule R4); a frame is a command to the furnace, and what
the furnace does with it is outside the block (U17). So each is refused by name, before
anything is written (assumption 7).
-/

namespace Sys2Proof.Machine

open Sys2Proof

/-- The refusal the five frame rows share. -/
def refuseFrame (_ : State) : Host.Outcome State Fault Refusal :=
  .refused .frameIsNoTransaction

/-- `FRAME.READ` as a transaction: refused (rule R206). -/
def execFrameRead (_param _crcByte _etx : Byte) (s : State) : Host.Outcome State Fault Refusal :=
  refuseFrame s

/-- `FRAME.SETPARAM` as a transaction: refused (rule R206). -/
def execFrameSetParam (_param _lo _hi _crcByte _etx : Byte) (s : State) :
    Host.Outcome State Fault Refusal :=
  refuseFrame s

/-- `FRAME.SETSWITCH` as a transaction: refused (rule R206). -/
def execFrameSetSwitch (_param _data _crcByte _etx : Byte) (s : State) :
    Host.Outcome State Fault Refusal :=
  refuseFrame s

/-- `FRAME.STATUSQUERY` as a transaction: refused (rule R206). -/
def execFrameStatusQuery (_crcByte _etx : Byte) (s : State) : Host.Outcome State Fault Refusal :=
  refuseFrame s

/-- `FRAME.SETTINGSQUERY` as a transaction: refused (rule R206). -/
def execFrameSettingsQuery (_crcByte _etx : Byte) (s : State) : Host.Outcome State Fault Refusal :=
  refuseFrame s

end Sys2Proof.Machine
end

