-- ==== Sys2Proof/Machine/Program.lean ====
section
/-!
DEFINITION. The weekly-program converter: `PRG.DEC` (rule R171) and `PRG.ENC` (rule R172) over
the map of rule R170.
-/

namespace Sys2Proof.Machine

open Sys2Proof

/-- The character of slot `s` of day `d` in a bitmap (rule R170, rule R171). -/
def slotChar (b : Bitmap) (d : Fin 7) (s : Fin 48) : Char :=
  if bit (b[slotByte d.val s.val]'(by unfold slotByte; omega)) (slotBit s.val) then '1' else '0'

/-- The seven day-strings of a bitmap (rule R171). -/
def daysOf (b : Bitmap) : List Str :=
  (List.finRange 7).map fun d => (List.finRange 48).map fun s => slotChar b d s

/-- Whether a day-string set has the shape 7 times 48 (rule R172). -/
def weekShaped (days : List Str) : Bool :=
  days.length == 7 && days.all (fun day => day.length == 48)

/-- Whether every character of a day-string set is `'0'` or `'1'` (rule R172). -/
def weekChars (days : List Str) : Bool :=
  days.all (fun day => day.all (fun c => c == '0' || c == '1'))

/-- Byte `k` of the packed form (rule R172): for each of its eight slots that is `'1'`, in
slot order, `1 << (s mod 8)` is or-ed in. Byte `k` holds the slots `8*(k mod 6) + n` of day
`k div 6` (rule R170). -/
def packedByte (days : List Str) (k : Nat) : Byte :=
  (List.range 8).foldl
    (fun out n => if slotSet days (k / 6) (8 * (k % 6) + n) then out ||| ((1 : Byte) <<< n) else out)
    0

/-- The 42 bytes of a day-string set (rule R172). -/
def bytesOf (days : List Str) : List Byte := (List.range 42).map (packedByte days)

/-- `PRG.DEC bytes42` (rule R171). -/
def execPrgDec (bytes42 : List Byte) (s : State) : Host.Outcome State Fault Refusal :=
  if h : bytes42.length = 42 then .next (complete (.days (daysOf (bitmapOf bytes42 h))) s)
  else .next (raise .badLength s)

/-- `PRG.ENC days` (rule R172): all length tests, then all character tests (rule R198), then
the packing. -/
def execPrgEnc (days : List Str) (s : State) : Host.Outcome State Fault Refusal :=
  if weekShaped days then
    if weekChars days then .next (complete (.bytes (bytesOf days)) s)
    else .next (raise .badChar s)
  else .next (raise .badLength s)

end Sys2Proof.Machine
end

