-- ==== Sys2Proof/Machine/StatusDecoder.lean ====
section
/-!
DEFINITION. The status demultiplexer: the record of rule R130 to rule R157 and the operation
`DEC.ST` (rule R120).
-/

namespace Sys2Proof.Machine

open Sys2Proof

/-- The record of a payload, field by field (rule R130 to rule R157). `up` is the draw of the
feeder minutes (rule R150). -/
def recordOf (v : Payload) (up : Bool) : StatusRecord where
  sensorHealth := Vector.ofFn fun i : Fin 8 => v[8 + i.val]
  sensorTemp := Vector.ofFn fun i : Fin 8 => temp16 v[16 + 2 * i.val] v[17 + 2 * i.val]
  output := Vector.ofFn fun i : Fin 8 => bit v[32] i.val
  heatingState := v[33]
  autoMode := isone v[34]
  setpointMode := v[35]
  cwuMode := v[36]
  targetBoilerTemp := v[37]
  targetDhwTemp := v[38]
  airPumpPower := v[39]
  alarmsRaw := u16le v[40] v[41]
  alarmActive := nonzero16 (u16le v[40] v[41])
  mixerCircuit := v[42]
  authLevel := v[43]
  datetime := date6 v[44] v[45] v[46] v[47] v[48] v[49]
  coLoweredActive := nonzero v[50]
  cwuLoweredActive := nonzero v[51]
  roomHeating := v[52]
  internalSetpoint := v[53]
  dayNight := v[54]
  roomDayTemp := temp16 v[55] v[56]
  roomNightTemp := temp16 v[57] v[58]
  loweredAmount0 := v[59]
  loweredAmount1 := v[60]
  inputsRaw := v[61]
  alarms2Raw := u16le v[62] v[63]
  feederRuntimeS := u32le v[64] v[65] v[66] v[67]
  feederRuntimeMinTenths := minuteTenths (u32le v[64] v[65] v[66] v[67]) up
  fuelLoadDate := date5 v[68] v[69] v[70] v[71] v[72]
  fuelRemaining := u24split v[73] v[74] v[77]
  fuelLoadPct := v[75]
  feedingPct := v[76]
  floorDayTemp := temp16 v[78] v[79]
  floorNightTemp := temp16 v[80] v[81]
  floorDayNight := v[82]
  isSummer := nonzero v[83]

/-- `feeder_runtime_s` of a payload (rule R150). -/
def feederSeconds (v : Payload) : BitVec 32 := u32le v[64] v[65] v[66] v[67]

/-- Whether decoding a payload makes a draw: its feeder minutes lie on a tie (rule R150). -/
def drawsTie (v : Payload) : Bool := isTie (feederSeconds v)

/-- The next draw (rule R150, D9): a free value, and the count of draws moves on where one is
made (assumption 4). -/
def takeDraw (v : Payload) (s : State) : Bool × State :=
  (Config.roundTie s.draws (feederSeconds v),
   { s with draws := if drawsTie v then s.draws + 1 else s.draws })

/-- `DEC.ST values` (rule R120): the length test, then the record. -/
def execDecSt (values : List Byte) (s : State) : Host.Outcome State Fault Refusal :=
  if h : 86 ≤ values.length then
    let v := payloadOf values h
    let d := takeDraw v s
    .next (complete (.record (recordOf v d.1)) d.2)
  else .next (raise .tooShort s)

end Sys2Proof.Machine
end

