-- ==== Sys2Proof/Machine/Dispatch.lean ====
section
/-!
DEFINITION. One arm per row of spec/opcode_table.json, each one direct call of its meaning.
-/

namespace Sys2Proof.Machine

open Sys2Proof

/-- What an instruction does (rule R51). -/
def exec (i : Instr) (s : State) : Host.Outcome State Fault Refusal :=
  match i with
  | .crc bytes => Sys2Proof.Machine.execCrc bytes s
  | .bldRd param => Sys2Proof.Machine.execBldRd param s
  | .bldSv param value => Sys2Proof.Machine.execBldSv param value s
  | .bldSw param on => Sys2Proof.Machine.execBldSw param on s
  | .litStatus => Sys2Proof.Machine.execLitStatus s
  | .litSettings => Sys2Proof.Machine.execLitSettings s
  | .litAutoOn => Sys2Proof.Machine.execLitAutoOn s
  | .litAutoOff => Sys2Proof.Machine.execLitAutoOff s
  | .decSt values => Sys2Proof.Machine.execDecSt values s
  | .prgDec bytes42 => Sys2Proof.Machine.execPrgDec bytes42 s
  | .prgEnc days => Sys2Proof.Machine.execPrgEnc days s
  | .frameRead param crcByte etxByte => Sys2Proof.Machine.execFrameRead param crcByte etxByte s
  | .frameSetParam param lo hi crcByte etxByte => Sys2Proof.Machine.execFrameSetParam param lo hi crcByte etxByte s
  | .frameSetSwitch param data crcByte etxByte => Sys2Proof.Machine.execFrameSetSwitch param data crcByte etxByte s
  | .frameStatusQuery crcByte etxByte => Sys2Proof.Machine.execFrameStatusQuery crcByte etxByte s
  | .frameSettingsQuery crcByte etxByte => Sys2Proof.Machine.execFrameSettingsQuery crcByte etxByte s

end Sys2Proof.Machine
end

