-- ==== Sys2Proof/Machine/HostSide.lean ====
section
/-!
DEFINITION. What the host does to the block, one event at a time (rule R225): issue a
transaction, read `RES` or `ST`, apply reset.
-/

namespace Sys2Proof.Machine

open Sys2Proof

/-- A transaction is issued: it is decoded (rule R50, rule R51), held against the operand
bound (rule R44), and runs to its end as one step (rule R35, rule R231). -/
def issueRequest (r : Request) (s : State) : Host.Outcome State Fault Refusal :=
  match decode r with
  | .error e => .refused (refusalOf e)
  | .ok i =>
    if fitsBound s.params.nmax i then exec i s else .refused .operandTooLong

/-- The host reads `RES`: nothing changes (rule R36), and a read of none is refused
(rule R13). -/
def hostReadRes (s : State) : Host.Outcome State Fault Refusal :=
  match readRes s with
  | .ok _ => .next s
  | .error e => .refused e

/-- One event of the host. -/
def hostEvent (e : HostEvent) (s : State) : Host.Outcome State Fault Refusal :=
  match e with
  | .issue r => issueRequest r s
  | .readRes => hostReadRes s
  | .readSt => .next s
  | .reset => .next (applyReset s)

/-- The next event is taken from the host's list; with none pending the block waits, unchanged
(rule R14, rule R222). -/
def nextEvent (s : State) : Host.Outcome State Fault Refusal :=
  match s.host with
  | [] => .next s
  | e :: rest => hostEvent e { s with host := rest }

/-- The state the host goes on from after one event: "a refusal writes no state" (rule R196),
so after one the block stands as it did and the host's next event follows. -/
def afterEvent (s : State) : State :=
  match nextEvent s with
  | .next t => t
  | .fault _ => { s with host := s.host.tail }
  | .refused _ => { s with host := s.host.tail }

/-- `n` events of the host's list, refusals passed over: a program of the host (rule R14). -/
def hostProgram (n : Nat) (s : State) : State :=
  match n with
  | 0 => s
  | k + 1 => hostProgram k (afterEvent s)

end Sys2Proof.Machine
end

