-- ==== Sys2Proof/Machine/Step.lean ====
section
/-!
DEFINITION. One step: the next event of the host. And the state in which the next event is the
issue of a given table word.
-/

namespace Sys2Proof.Machine

open Sys2Proof

/-- One step of the machine: one event of the host, a whole operation being one (rule R231). -/
def step (s : State) : Host.Outcome State Fault Refusal := nextEvent s

/-- The state in which the host's next event issues the request of a table word. The block
fetches nothing (rule R14): the host's list is where a step takes its instruction from
(assumption 5). -/
def State.withFetchWord (s : State) (nbits w : Nat) : State :=
  { s with host := .issue (requestOfTableWord nbits w) :: s.host }

end Sys2Proof.Machine
end

