-- ==== Sys2Proof/Safety.lean ====
section
/-!
DEFINITION. What a good state and a good run are, in the terms claims use: the result types of
rule R11 beyond their Lean types, the relation between `ST` and `RES` (rule R200), and a run
that meets no refusal.
-/

namespace Sys2Proof.Machine

open Sys2Proof

/-- The 16-letter hex alphabet (rule R11). -/
def hexAlphabet : Str := "0123456789abcdef".toList

/-- A hex string as rule R11 types it: over the alphabet, and of even length. The two OPEN
literals are strings over the alphabet of which no length may be assumed (rule R97). -/
def hexWf (p : Params) (h : Str) : Bool :=
  h.all (fun c => hexAlphabet.contains c) &&
  (h.length % 2 == 0 || h == p.litAutoOn.map hexDigit || h == p.litAutoOff.map hexDigit)

/-- An `s16` (rule R6). -/
def isS16 (t : Int) : Bool := decide (-32768 ≤ t) && decide (t ≤ 32767)

/-- A date that is there is a calendar date of the years 2000..2255 (rule R128). -/
def dateTimeWf (t : DateTime) : Bool :=
  decide (2000 ≤ t.year) && decide (t.year ≤ 2255) &&
  validDate t.year t.month t.day t.hour t.minute t.second

/-- The same of the five-component date, judged with second 0 (rule R128). -/
def loadDateWf (t : LoadDate) : Bool :=
  decide (2000 ≤ t.year) && decide (t.year ≤ 2255) &&
  validDate t.year t.month t.day t.hour t.minute 0

/-- A record as rule R17 types it, with its paired fields agreeing (rule R140, rule R150). -/
def recordWf (r : StatusRecord) : Bool :=
  r.sensorTemp.toList.all isS16 &&
  isS16 r.roomDayTemp && isS16 r.roomNightTemp && isS16 r.floorDayTemp && isS16 r.floorNightTemp &&
  r.alarmActive == nonzero16 r.alarmsRaw &&
  (r.feederRuntimeMinTenths == minuteTenths r.feederRuntimeS false ||
    r.feederRuntimeMinTenths == minuteTenths r.feederRuntimeS true) &&
  r.datetime.all dateTimeWf && r.fuelLoadDate.all loadDateWf

/-- A value `RES` can hold (rule R11). -/
def resultWf (p : Params) (r : Result) : Bool :=
  match r with
  | .crc8 _ => true
  | .hex h => hexWf p h
  | .record rec => recordWf rec
  | .days d => weekShaped d && weekChars d
  | .bytes b => b.length == 42

/-- The invariant of the machine: `RES` holds none or a value of rule R11, and none after a
failure (rule R200). -/
def State.Inv (s : State) : Prop :=
  (∀ r, s.res = some r → resultWf s.params r = true) ∧ (∀ f, s.st = .failed f → s.res = none)

/-- A run of `n` steps that meets no refusal. -/
def SafeFor (n : Nat) (s : State) : Prop := ∃ t, Sys2Proof.core.run n s = .next t

end Sys2Proof.Machine
end

