-- ==== Sys2Proof/Certificates/Slice0/Obligations.lean ====
section
/-!
DEFINITION. The statements for the provers, drawn from the numbered rules of the spec. Each
docstring names the rule a statement formalises, and says where a clause rests on a decision
of the spec (D<n>) or of the model (an assumption).
-/

open Sys2Proof Sys2Proof.Machine

/-! ## Reset, the host's events, the step -/

/-- Rule R23 (D15): after reset `ST` = `OK`, `RES` = none and a host read of it is a refusal;
the constants stand, the table at the content D2 gives it (rule R84). The values are the
spec's decisions (assumptions 2, 25). -/
def Obligations.ResetState : Prop :=
  State.reset.st = .ok ∧ State.reset.res = none ∧ readRes State.reset = .error .emptyRead ∧
  State.reset.params.table = defaultTable

/-- Rule R220 (D15, assumption 25) and rule R221: the reset event gives `ST` and `RES` their reset values and
leaves the constants; the host's other events and the draws made are the model's own fields
(assumptions 4, 5) and stay. -/
def Obligations.ResetEventRestores : Prop :=
  ∀ (s : State) (rest : List HostEvent), s.host = .reset :: rest →
    ∃ t, step s = .next t ∧ t.st = .ok ∧ t.res = none ∧ t.params = s.params ∧ t.host = rest ∧
      t.draws = s.draws

/-- Rule R50, rule R35: a step that finds the issue of a transaction which decodes to a
well-formed instruction within the operand bound is that instruction's `exec`, on the state
with the event taken from the host's list (assumption 5). -/
def Obligations.StepRunsDecodedOperation : Prop :=
  ∀ (s : State) (r : Request) (rest : List HostEvent) (i : Instr),
    s.host = .issue r :: rest → decode r = .ok i → i.wellFormed = true →
    fitsBound s.params.nmax i = true →
    step s = exec i { s with host := rest }

/-- Rule R13 (D14), rule R36: a host read of `RES` changes nothing where it holds a value, and
is the refusal `EmptyRead` where it holds none (assumption 20). -/
def Obligations.ResultReads : Prop :=
  ∀ (s : State) (rest : List HostEvent), s.host = .readRes :: rest →
    (∀ r, s.res = some r → step s = .next { s with host := rest } ∧ readRes s = .ok r) ∧
    (s.res = none → step s = .refused .emptyRead)

/-- Rule R222 (D4), rule R14: with no event of the host pending the block waits, unchanged
(assumption 10); a
host read of `ST` changes nothing (rule R12). -/
def Obligations.IdleAndStatusReads : Prop :=
  (∀ s : State, s.host = [] → step s = .next s) ∧
  (∀ (s : State) (rest : List HostEvent), s.host = .readSt :: rest →
    step s = .next { s with host := rest } ∧ readSt s = s.st)

/-- Rule R63 (D23): `OPSEL` 0x0B..0xFF is refused whatever the operands. -/
def Obligations.UnassignedCodesRefused : Prop :=
  ∀ (s : State) (opsel : Byte) (operands : List Operand) (rest : List HostEvent),
    0x0B ≤ opsel.toNat → s.host = .issue (.op opsel operands) :: rest →
    step s = .refused (.unknownOp opsel)

/-- Rule R196 (D7, D23, D14): "write no state". The host goes on from the state it left, its
next event first, after any refused event (assumption 9). -/
def Obligations.RefusalsWriteNothing : Prop :=
  ∀ (s : State) (r : Refusal), step s = .refused r →
    s.host ≠ [] ∧ afterEvent s = { s with host := s.host.tail }

/-- Rule R44 (D25): a sequence operand longer than `NMAX` cannot be presented: the byte sequence
of `CRC`, `DEC.ST`, `PRG.DEC`, and for `PRG.ENC` the sequence of strings or any one of them. That
it is refused, that a string counts, and that the bound holds for operations other than `CRC`
(rule R44 and U18 bound every sequence operand, D25 ends "only `CRC` is affected by a bound") is
the model's choice (assumption 13). -/
def Obligations.BoundedOperandsOnly : Prop :=
  ∀ (s : State) (n : Nat) (rest : List HostEvent), s.params.nmax = some n →
    (∀ (opsel : Byte) (bytes : List Byte), opsel = 0x00 ∨ opsel = 0x08 ∨ opsel = 0x09 →
      n < bytes.length →
      s.host = .issue (.op opsel [.bytes bytes]) :: rest → step s = .refused .operandTooLong) ∧
    (∀ days : List Str, (n < days.length ∨ ∃ day ∈ days, n < day.length) →
      s.host = .issue (.op 0x0A [.strings days]) :: rest → step s = .refused .operandTooLong)

/-! ## Encodings -/

/-- Rule R51 (D5): each select code with the operands of its row decodes to its operation. -/
def Obligations.SelectCodesDecode : Prop :=
  (∀ l, decode (.op 0x00 [.bytes l]) = .ok (.crc l)) ∧
  (∀ p, decode (.op 0x01 [.u8 p]) = .ok (.bldRd p)) ∧
  (∀ p (v : Int), -2147483648 ≤ v → v ≤ 2147483647 →
    decode (.op 0x02 [.u8 p, .i32 v]) = .ok (.bldSv p v)) ∧
  (∀ p b, decode (.op 0x03 [.u8 p, .flag b]) = .ok (.bldSw p b)) ∧
  decode (.op 0x04 []) = .ok .litStatus ∧ decode (.op 0x05 []) = .ok .litSettings ∧
  decode (.op 0x06 []) = .ok .litAutoOn ∧ decode (.op 0x07 []) = .ok .litAutoOff ∧
  (∀ l, decode (.op 0x08 [.bytes l]) = .ok (.decSt l)) ∧
  (∀ l, decode (.op 0x09 [.bytes l]) = .ok (.prgDec l)) ∧
  (∀ l, decode (.op 0x0A [.strings l]) = .ok (.prgEnc l)) ∧
  decode (.frame [0x02, 0x01, 0x00, 0x06, 0x00, 0x00, 0x00, 0x00, 0x61, 0x03]) =
    .ok (.frameStatusQuery 0x61 0x03) ∧
  decode (.frame [0x02, 0x01, 0x00, 0x05, 0x00, 0x16, 0x00, 0x00, 0x24, 0x03]) =
    .ok (.frameSettingsQuery 0x24 0x03)

/-- Decoding the encoding of a well-formed instruction gives it back, with every operand at
every value (rule R50, rule R51, rule R52, rule R69). -/
def Obligations.DecodeAfterEncode : Prop :=
  ∀ i : Instr, i.wellFormed = true → decode (encode i) = .ok i

/-- Encoding what a request decodes to gives the request back: no bit of a request is dropped
and no request stands for two instructions. -/
def Obligations.EncodeAfterDecode : Prop :=
  ∀ (r : Request) (i : Instr), decode r = .ok i → encode i = r

/-- Rule R69: "the five frame kinds have pairwise disjoint match sets" (marked derived there). -/
def Obligations.FramePatternsDisjoint : Prop :=
  ∀ (first8 : BitVec 64) (k k' : FrameKind),
    frameIsKind first8 k = true → frameIsKind first8 k' = true → k = k'

/-! ## The CRC engine -/

/-- Rule R80, rule R81, rule R82: `CRC bytes` leaves in `RES` and in `ACC` the left fold of
`TABLE[acc xor b]` from 0, `OK` in `ST`, and touches nothing else; it never fails. That `ACC`
is left holding the CRC is rule R82's word. -/
def Obligations.CrcOperation : Prop :=
  ∀ (bytes : List Byte) (s : State),
    let c : Byte :=
      bytes.foldl (fun acc b => s.params.table[(acc ^^^ b).toNat]'((acc ^^^ b).isLt)) 0
    exec (.crc bytes) s = .next { s with st := .ok, res := some (.crc8 c), acc := c }

/-- Rule R83 (a) to (c), for any table: the empty sequence, one byte more, and feeding in
pieces: the CRC of the whole is the CRC of the second part xor-ed onto where the first ended. -/
def Obligations.CrcLawsAnyTable : Prop :=
  ∀ table : Vector Byte 256,
    crc table [] = 0 ∧
    (∀ xs b, crc table (xs ++ [b]) = table[(crc table xs ^^^ b).toNat]'((crc table xs ^^^ b).isLt)) ∧
    (∀ xs ys, crc table (xs ++ ys) = ys.foldl (crcStep table) (crc table xs)) ∧
    (∀ xs b ys, crc table (xs ++ b :: ys) = crc table ((crc table xs ^^^ b) :: ys))

/-- Rule R83 (d), (e), under the default table (D2, rule R84), as the operation answers them:
leading zero bytes change nothing, and a sequence followed by its own CRC gives 0. -/
def Obligations.CrcLawsDefaultTable : Prop :=
  ∀ (xs : List Byte) (s : State), s.params.table = defaultTable →
    (∀ n, ∃ t, exec (.crc (List.replicate n 0 ++ xs)) s = .next t ∧
      exec (.crc xs) s = .next t) ∧
    ∃ c t, exec (.crc xs) s = .next { s with st := .ok, res := some (.crc8 c), acc := c } ∧
      exec (.crc (xs ++ [c])) s = .next t ∧ t.res = some (.crc8 0)

/-- Rule R84 (D2): every entry of the default table is its index shifted left eight times with
0x31 xor-ed in whenever the top bit falls out; and the two pairs the source fixes. -/
def Obligations.DefaultTableContent : Prop :=
  (∀ i : Byte, defaultTable[i.toNat]'i.isLt =
    (List.range 8).foldl
      (fun (c : Byte) _ => if c &&& 0x80 = 0 then c <<< 1 else (c <<< 1) ^^^ 0x31) i) ∧
  crc defaultTable [0x01, 0x00, 0x06, 0x00, 0x00, 0x00, 0x00] = 0x61 ∧
  crc defaultTable [0x01, 0x00, 0x05, 0x00, 0x16, 0x00, 0x00] = 0x24

/-! ## The frame serializer -/

/-- Rule R91: two characters per byte, the high nibble's digit first, lowercase. -/
def Obligations.HexSerialization : Prop :=
  ∀ f : List Byte,
    (hexStr f).length = 2 * f.length ∧
    ∀ (k : Nat) (b : Byte), f[k]? = some b →
      (hexStr f)[2 * k]? = "0123456789abcdef".toList[b.toNat / 16]? ∧
      (hexStr f)[2 * k + 1]? = "0123456789abcdef".toList[b.toNat % 16]?

/-- Rule R52, rule R53, rule R56, rule R60, rule R90: the layout of an assembled frame, its LEN
the little-endian length of DATA, its CRC over bytes 1 to `7 + n`. -/
def Obligations.FrameLayout : Prop :=
  ∀ (table : Vector Byte 256) (cmd cmd2 cmd3 : Byte) (data : List Byte),
    data.length ≤ 65535 →
    ∃ lo hi : Byte, lo.toNat + 256 * hi.toNat = data.length ∧
      frameBytes table cmd cmd2 cmd3 data =
        [0x02, 0x01, 0x00, cmd, cmd2, cmd3, lo, hi] ++ data ++
        [crc table ([0x01, 0x00, cmd, cmd2, cmd3, lo, hi] ++ data), 0x03]

/-- Rule R92: `BLD.RD param`, for every parameter and every table. That `ACC` keeps the CRC after
the operation is the model's choice (rule R22 leaves it open, assumption 11). -/
def Obligations.BuildRead : Prop :=
  ∀ (p : Byte) (s : State),
    let c := crc s.params.table [0x01, 0x00, 0x01, 0x00, p, 0x00, 0x00]
    exec (.bldRd p) s = .next { s with
      st := .ok, acc := c,
      res := some (.hex (hexStr [0x02, 0x01, 0x00, 0x01, 0x00, p, 0x00, 0x00, c, 0x03])) }

/-- Rule R93 within the admitted range, rule R57: the two data bytes are `value mod 65536`,
low byte first, at both ends of the range and for every table. What `ACC` keeps is the model's
choice (assumption 11). -/
def Obligations.BuildSetValue : Prop :=
  ∀ (p : Byte) (v : Int) (s : State), -32768 ≤ v → v ≤ 65535 →
    ∃ lo hi : Byte, (lo.toNat : Int) + 256 * hi.toNat = v % 65536 ∧
      let c := crc s.params.table [0x01, 0x00, 0x02, 0x00, p, 0x02, 0x00, lo, hi]
      exec (.bldSv p v) s = .next { s with
        st := .ok, acc := c,
        res := some (.hex
          (hexStr [0x02, 0x01, 0x00, 0x02, 0x00, p, 0x02, 0x00, lo, hi, c, 0x03])) }

/-- Rule R93, rule R196 (D7): outside the admitted range the operation is refused, at every
value of an `i32` and beyond. The refusal is the spec's decision (assumption 19). -/
def Obligations.SetValueOutOfRangeRefused : Prop :=
  ∀ (p : Byte) (v : Int) (s : State), v < -32768 ∨ 65535 < v →
    exec (.bldSv p v) s = .refused (.valueOutOfRange v)

/-- Rule R93 (b), rule R228: two admitted values give one outcome exactly when they agree
modulo 65536, whatever the table. -/
def Obligations.SetValueFoldsModulo : Prop :=
  ∀ (p : Byte) (v w : Int) (s : State),
    -32768 ≤ v → v ≤ 65535 → -32768 ≤ w → w ≤ 65535 →
    (exec (.bldSv p v) s = exec (.bldSv p w) s ↔ v % 65536 = w % 65536)

/-- Rule R94, rule R58: `BLD.SW param, on`, for both values and every table. What `ACC` keeps is
the model's choice (assumption 11). -/
def Obligations.BuildSetSwitch : Prop :=
  ∀ (p : Byte) (on : Bool) (s : State),
    let d : Byte := if on = true then 0x01 else 0x00
    let c := crc s.params.table [0x01, 0x00, 0x05, 0x00, p, 0x01, 0x00, d]
    exec (.bldSw p on) s = .next { s with
      st := .ok, acc := c,
      res := some (.hex (hexStr [0x02, 0x01, 0x00, 0x05, 0x00, p, 0x01, 0x00, d, c, 0x03])) }

/-- Rule R99 (a) to (f), of every frame the three builders produce. -/
def Obligations.BuiltFrameInvariants : Prop :=
  ∀ (i : Instr) (s t : State),
    ((∃ p, i = .bldRd p) ∨ (∃ p v, i = .bldSv p v) ∨ (∃ p b, i = .bldSw p b)) →
    exec i s = .next t →
    ∃ (f : List Byte) (n : Nat) (lo hi c : Byte),
      t.res = some (.hex (hexStr f)) ∧ f.length = 10 + n ∧
      f[0]? = some 0x02 ∧ f.getLast? = some 0x03 ∧
      f[1]? = some 0x01 ∧ f[2]? = some 0x00 ∧ f[4]? = some 0x00 ∧
      f[6]? = some lo ∧ f[7]? = some hi ∧ lo.toNat + 256 * hi.toNat = n ∧
      f[8 + n]? = some c ∧ c = crc s.params.table ((f.drop 1).take (7 + n)) ∧
      (hexStr f).length = 20 + 2 * n ∧
      ∀ ch ∈ hexStr f, ch ∈ "0123456789abcdef".toList

/-- Rule R68, rule R230, C2: under any table no builder gives either query literal; in
particular `BLD.RD 0x06` is not `LIT.STATUS`. -/
def Obligations.BuildersNeverGiveQueryLiterals : Prop :=
  ∀ (i : Instr) (s t : State),
    ((∃ p, i = .bldRd p) ∨ (∃ p v, i = .bldSv p v) ∨ (∃ p b, i = .bldSw p b)) →
    exec i s = .next t →
    t.res ≠ some (.hex "02010006000000006103".toList) ∧
    t.res ≠ some (.hex "02010005001600002403".toList)

/-- Rule R95, rule R96: the two query operations leave the printed literals. -/
def Obligations.QueryLiteralOperations : Prop :=
  ∀ s : State,
    exec .litStatus s =
      .next { s with st := .ok, res := some (.hex "02010006000000006103".toList) } ∧
    exec .litSettings s =
      .next { s with st := .ok, res := some (.hex "02010005001600002403".toList) }

/-- Rule R97, rule R98 (D3): `LIT.AUTOON` leaves `LIT_AUTO_ON` and `LIT.AUTOOFF` leaves
`LIT_AUTO_OFF`, each the OPEN string the constants hold for it, over the hex alphabet, in every
state and for every content of the two. What they are at reset is a free value (assumption 3). -/
def Obligations.AutoModeLiteralOperations : Prop :=
  ∀ s : State,
    exec .litAutoOn s =
      .next { s with st := .ok, res := some (.hex (s.params.litAutoOn.map hexDigit)) } ∧
    exec .litAutoOff s =
      .next { s with st := .ok, res := some (.hex (s.params.litAutoOff.map hexDigit)) } ∧
    (∀ c ∈ s.params.litAutoOn.map hexDigit, c ∈ "0123456789abcdef".toList) ∧
    (∀ c ∈ s.params.litAutoOff.map hexDigit, c ∈ "0123456789abcdef".toList)

/-- Rule R95, rule R96 (there marked derived), under the default table (D2): the printed
literals are frames of the general layout. -/
def Obligations.QueryLiteralsAreFrames : Prop :=
  hexStr (frameBytes defaultTable 0x06 0x00 0x00 []) = "02010006000000006103".toList ∧
  hexStr (frameBytes defaultTable 0x05 0x00 0x16 []) = "02010005001600002403".toList

/-- Rule R54, rule R69: what each builder leaves is the hex string of a frame of its own row,
with its operand in the row's free bytes; ETX stands last. -/
def Obligations.BuiltFramesMatchRows : Prop :=
  (∀ (p : Byte) (s : State), ∃ t f c, exec (.bldRd p) s = .next t ∧
    t.res = some (.hex (hexStr f)) ∧ decode (.frame f) = .ok (.frameRead p c 0x03)) ∧
  (∀ (p : Byte) (v : Int) (s : State), -32768 ≤ v → v ≤ 65535 →
    ∃ t f lo hi c, exec (.bldSv p v) s = .next t ∧ t.res = some (.hex (hexStr f)) ∧
      decode (.frame f) = .ok (.frameSetParam p lo hi c 0x03) ∧
      (lo.toNat : Int) + 256 * hi.toNat = v % 65536) ∧
  (∀ (p : Byte) (on : Bool) (s : State), ∃ t f c, exec (.bldSw p on) s = .next t ∧
    t.res = some (.hex (hexStr f)) ∧
    decode (.frame f) = .ok (.frameSetSwitch p (if on = true then 0x01 else 0x00) c 0x03))

/-- Rule R206 (D5, D17), rule R69: a frame laid before the block is no transaction. That each of
the five kinds is refused, on every path, is the model's deduction from them (assumption 7). -/
def Obligations.FrameRowsAreNoTransactions : Prop :=
  ∀ (a b c d e : Byte) (s : State),
    exec (.frameRead a b c) s = .refused .frameIsNoTransaction ∧
    exec (.frameSetParam a b c d e) s = .refused .frameIsNoTransaction ∧
    exec (.frameSetSwitch a b c d) s = .refused .frameIsNoTransaction ∧
    exec (.frameStatusQuery a b) s = .refused .frameIsNoTransaction ∧
    exec (.frameSettingsQuery a b) s = .refused .frameIsNoTransaction

/-! ## The status demultiplexer -/

/-- Rule R120, rule R160: two outcomes and no third. Fewer than 86 elements: `TooShort`, none
in `RES`, nothing else moved. At least 86: `OK` and a record, and beside them only the count
of draws, a field of the model's own (assumption 4), may move. -/
def Obligations.StatusDecodeOutcomes : Prop :=
  ∀ (values : List Byte) (s : State),
    (values.length < 86 →
      exec (.decSt values) s = .next { s with st := .failed .tooShort, res := none }) ∧
    (86 ≤ values.length → ∃ r d,
      exec (.decSt values) s = .next { s with st := .ok, res := some (.record r), draws := d })

/-- Rule R130, rule R133, rule R135 to rule R139, rule R141, rule R142, rule R145, rule R147,
rule R148, rule R153, rule R154, rule R156: the raw fields are the elements at their offsets. -/
def Obligations.StatusRawFields : Prop :=
  ∀ (values : List Byte) (v : Nat → Byte) (s : State),
    (∀ k, k < 86 → values[k]? = some (v k)) →
    ∃ r d, exec (.decSt values) s = .next { s with st := .ok, res := some (.record r), draws := d } ∧
      (∀ i : Fin 8, r.sensorHealth[i.val] = v (8 + i.val)) ∧
      r.heatingState = v 33 ∧ r.setpointMode = v 35 ∧ r.cwuMode = v 36 ∧
      r.targetBoilerTemp = v 37 ∧ r.targetDhwTemp = v 38 ∧ r.airPumpPower = v 39 ∧
      r.mixerCircuit = v 42 ∧ r.authLevel = v 43 ∧
      r.roomHeating = v 52 ∧ r.internalSetpoint = v 53 ∧ r.dayNight = v 54 ∧
      r.loweredAmount0 = v 59 ∧ r.loweredAmount1 = v 60 ∧ r.inputsRaw = v 61 ∧
      r.fuelLoadPct = v 75 ∧ r.feedingPct = v 76 ∧ r.floorDayNight = v 82

/-- Rule R121, rule R124, rule R125, rule R140, rule R149, rule R152: the counters and alarm
words as little-endian numbers; `fuel_remaining` from offsets 73, 74 and 77. -/
def Obligations.StatusCounters : Prop :=
  ∀ (values : List Byte) (v : Nat → Byte) (s : State),
    (∀ k, k < 86 → values[k]? = some (v k)) →
    ∃ r d, exec (.decSt values) s = .next { s with st := .ok, res := some (.record r), draws := d } ∧
      r.alarmsRaw.toNat = (v 40).toNat + 256 * (v 41).toNat ∧
      (r.alarmActive = true ↔ r.alarmsRaw.toNat ≠ 0) ∧
      r.alarms2Raw.toNat = (v 62).toNat + 256 * (v 63).toNat ∧
      r.feederRuntimeS.toNat = (v 64).toNat + 256 * (v 65).toNat + 65536 * (v 66).toNat +
        16777216 * (v 67).toNat ∧
      r.fuelRemaining.toNat = (v 73).toNat + 256 * (v 74).toNat + 65536 * (v 77).toNat

/-- Rule R122, rule R123 (D8), rule R131, rule R146, rule R155: every temperature is the one
number in -32768..32767 congruent to its little-endian byte pair, whatever the health bytes
say. The pairing of sensors with bytes and the order day, night are marked derived there
(assumption 21), tenths are the spec's decision (assumption 15). -/
def Obligations.StatusTemperatures : Prop :=
  ∀ (values : List Byte) (v : Nat → Byte) (s : State),
    (∀ k, k < 86 → values[k]? = some (v k)) →
    let signedPair (t : Int) (k : Nat) : Prop :=
      -32768 ≤ t ∧ t ≤ 32767 ∧ t % 65536 = ((v k).toNat : Int) + 256 * (v (k + 1)).toNat
    ∃ r d, exec (.decSt values) s = .next { s with st := .ok, res := some (.record r), draws := d } ∧
      (∀ i : Fin 8, signedPair r.sensorTemp[i.val] (16 + 2 * i.val)) ∧
      signedPair r.roomDayTemp 55 ∧ signedPair r.roomNightTemp 57 ∧
      signedPair r.floorDayTemp 78 ∧ signedPair r.floorNightTemp 80

/-- Rule R126, rule R127, rule R132, rule R134, rule R157: the output bits, the one "is one"
flag and the "nonzero" summer flag. -/
def Obligations.StatusFlags : Prop :=
  ∀ (values : List Byte) (v : Nat → Byte) (s : State),
    (∀ k, k < 86 → values[k]? = some (v k)) →
    ∃ r d, exec (.decSt values) s = .next { s with st := .ok, res := some (.record r), draws := d } ∧
      (∀ i : Fin 8, (r.output[i.val] = true ↔ (v 32).toNat / 2 ^ i.val % 2 = 1)) ∧
      (r.autoMode = true ↔ (v 34).toNat = 1) ∧
      (r.isSummer = true ↔ (v 83).toNat ≠ 0)

/-- Rule R144 (marked derived there, assumption 21): of the two "nonzero" flags the one at
offset 50 is co, the one at 51 is cwu. -/
def Obligations.StatusLoweredFlags : Prop :=
  ∀ (values : List Byte) (v : Nat → Byte) (s : State),
    (∀ k, k < 86 → values[k]? = some (v k)) →
    ∃ r d, exec (.decSt values) s = .next { s with st := .ok, res := some (.record r), draws := d } ∧
      (r.coLoweredActive = true ↔ (v 50).toNat ≠ 0) ∧
      (r.cwuLoweredActive = true ↔ (v 51).toNat ≠ 0)

/-- Rule R128 (D10), rule R143, rule R151: each date is its components where they are a
Gregorian date and a time of day, and none otherwise; the load date is judged with second 0.
The calendar test is the spec's decision, not the source's (assumption 16). -/
def Obligations.StatusDates : Prop :=
  ∀ (values : List Byte) (v : Nat → Byte) (s : State),
    (∀ k, k < 86 → values[k]? = some (v k)) →
    let n (k : Nat) : Nat := (v k).toNat
    let leapYear (y : Nat) : Prop := (y % 4 = 0 ∧ y % 100 ≠ 0) ∨ y % 400 = 0
    let valid (y mo d h mi sec : Nat) : Prop :=
      (1 ≤ mo ∧ mo ≤ 12) ∧ 1 ≤ d ∧ d ≤ 31 ∧
      ((mo = 4 ∨ mo = 6 ∨ mo = 9 ∨ mo = 11) → d ≤ 30) ∧
      (mo = 2 → d ≤ 29 ∧ (d = 29 → leapYear y)) ∧
      h ≤ 23 ∧ mi ≤ 59 ∧ sec ≤ 59
    ∃ r d, exec (.decSt values) s = .next { s with st := .ok, res := some (.record r), draws := d } ∧
      (valid (2000 + n 44) (n 45) (n 46) (n 47) (n 48) (n 49) →
        r.datetime = some ⟨2000 + n 44, n 45, n 46, n 47, n 48, n 49⟩) ∧
      (¬ valid (2000 + n 44) (n 45) (n 46) (n 47) (n 48) (n 49) → r.datetime = none) ∧
      (valid (2000 + n 68) (n 69) (n 70) (n 71) (n 72) 0 →
        r.fuelLoadDate = some ⟨2000 + n 68, n 69, n 70, n 71, n 72⟩) ∧
      (¬ valid (2000 + n 68) (n 69) (n 70) (n 71) (n 72) 0 → r.fuelLoadDate = none)

/-- Rule R150 (D9): the feeder minutes in tenths are the nearest integer to a sixth of the
seconds; at a tie they are one of the two neighbours, whichever the draw takes (assumption 4). -/
def Obligations.StatusFeederMinutes : Prop :=
  ∀ (values : List Byte) (s : State), 86 ≤ values.length →
    ∃ r d, exec (.decSt values) s = .next { s with st := .ok, res := some (.record r), draws := d } ∧
      let q := r.feederRuntimeS.toNat / 6
      let m := r.feederRuntimeMinTenths
      (r.feederRuntimeS.toNat % 6 ≤ 2 → m = q) ∧
      (4 ≤ r.feederRuntimeS.toNat % 6 → m = q + 1) ∧
      (r.feederRuntimeS.toNat % 6 = 3 → m = q ∨ m = q + 1) ∧
      6 * m ≤ r.feederRuntimeS.toNat + 3 ∧ r.feederRuntimeS.toNat ≤ 6 * m + 3 ∧ m ≤ 715827883

/-- Rule R39, rule R158: what stands at offsets 0..7, 84, 85 and from 86 on changes nothing:
two replies that agree at offsets 8..83 have one outcome. -/
def Obligations.StatusUnreadOffsets : Prop :=
  ∀ (values values' : List Byte) (s : State),
    86 ≤ values.length → 86 ≤ values'.length →
    (∀ k, 8 ≤ k → k ≤ 83 → values[k]? = values'[k]?) →
    exec (.decSt values) s = exec (.decSt values') s

/-- Rule R159 (marked derived there): each field depends on the elements at its own offsets
alone. The two decodings start from one state, so that a tie is drawn alike (assumption 4); the
order inside derived pairs is assumption 21. -/
def Obligations.StatusFieldIndependence : Prop :=
  ∀ (values values' : List Byte) (s t t' : State) (r r' : StatusRecord),
    exec (.decSt values) s = .next t → t.res = some (.record r) →
    exec (.decSt values') s = .next t' → t'.res = some (.record r') →
    let same (lo hi : Nat) : Prop := ∀ k, lo ≤ k → k ≤ hi → values[k]? = values'[k]?
    (∀ i : Fin 8, same (8 + i.val) (8 + i.val) → r.sensorHealth[i.val] = r'.sensorHealth[i.val]) ∧
    (∀ i : Fin 8, same (16 + 2 * i.val) (17 + 2 * i.val) →
      r.sensorTemp[i.val] = r'.sensorTemp[i.val]) ∧
    (same 32 32 → r.output = r'.output) ∧
    (same 33 33 → r.heatingState = r'.heatingState) ∧
    (same 34 34 → r.autoMode = r'.autoMode) ∧
    (same 35 35 → r.setpointMode = r'.setpointMode) ∧
    (same 36 36 → r.cwuMode = r'.cwuMode) ∧
    (same 37 37 → r.targetBoilerTemp = r'.targetBoilerTemp) ∧
    (same 38 38 → r.targetDhwTemp = r'.targetDhwTemp) ∧
    (same 39 39 → r.airPumpPower = r'.airPumpPower) ∧
    (same 40 41 → r.alarmsRaw = r'.alarmsRaw ∧ r.alarmActive = r'.alarmActive) ∧
    (same 42 42 → r.mixerCircuit = r'.mixerCircuit) ∧
    (same 43 43 → r.authLevel = r'.authLevel) ∧
    (same 44 49 → r.datetime = r'.datetime) ∧
    (same 50 50 → r.coLoweredActive = r'.coLoweredActive) ∧
    (same 51 51 → r.cwuLoweredActive = r'.cwuLoweredActive) ∧
    (same 52 52 → r.roomHeating = r'.roomHeating) ∧
    (same 53 53 → r.internalSetpoint = r'.internalSetpoint) ∧
    (same 54 54 → r.dayNight = r'.dayNight) ∧
    (same 55 56 → r.roomDayTemp = r'.roomDayTemp) ∧
    (same 57 58 → r.roomNightTemp = r'.roomNightTemp) ∧
    (same 59 59 → r.loweredAmount0 = r'.loweredAmount0) ∧
    (same 60 60 → r.loweredAmount1 = r'.loweredAmount1) ∧
    (same 61 61 → r.inputsRaw = r'.inputsRaw) ∧
    (same 62 63 → r.alarms2Raw = r'.alarms2Raw) ∧
    (same 64 67 → r.feederRuntimeS = r'.feederRuntimeS ∧
      r.feederRuntimeMinTenths = r'.feederRuntimeMinTenths) ∧
    (same 68 72 → r.fuelLoadDate = r'.fuelLoadDate) ∧
    (same 73 74 → same 77 77 → r.fuelRemaining = r'.fuelRemaining) ∧
    (same 75 75 → r.fuelLoadPct = r'.fuelLoadPct) ∧
    (same 76 76 → r.feedingPct = r'.feedingPct) ∧
    (same 78 79 → r.floorDayTemp = r'.floorDayTemp) ∧
    (same 80 81 → r.floorNightTemp = r'.floorNightTemp) ∧
    (same 82 82 → r.floorDayNight = r'.floorDayNight) ∧
    (same 83 83 → r.isSummer = r'.isSummer)

/-- Rule R128, rule R192, the source's example S9: an invalid month blanks the date-time field
and nothing else, and does not disturb `ST`. -/
def Obligations.InvalidDateBlanksOneField : Prop :=
  ∀ (values : List Byte) (month : Byte) (s : State), 86 ≤ values.length →
    month = 0 ∨ 13 ≤ month.toNat →
    ∃ r d, exec (.decSt values) s = .next { s with st := .ok, res := some (.record r), draws := d } ∧
      exec (.decSt (values.set 45 month)) s =
        .next { s with st := .ok, res := some (.record { r with datetime := none }), draws := d }

/-! ## The weekly-program converter -/

/-- Rule R170, rule R171 (its failure D11): 42 bytes give seven strings of 48 characters, slot
`s` of day `d` being bit `s mod 8` of byte `6*d + s div 8`; any other length is `BadLength`
(the spec's decision, assumption 17). -/
def Obligations.ProgramDecode : Prop :=
  ∀ (bytes42 : List Byte) (s : State),
    (bytes42.length ≠ 42 →
      exec (.prgDec bytes42) s = .next { s with st := .failed .badLength, res := none }) ∧
    (bytes42.length = 42 →
      ∃ days : List Str,
        exec (.prgDec bytes42) s = .next { s with st := .ok, res := some (.days days) } ∧
        days.length = 7 ∧ (∀ day ∈ days, day.length = 48) ∧
        ∀ (d n : Nat) (b : Byte), d < 7 → n < 48 → bytes42[6 * d + n / 8]? = some b →
          ∃ day, days[d]? = some day ∧
            day[n]? = some (if b.toNat / 2 ^ (n % 8) % 2 = 1 then '1' else '0'))

/-- Rule R170, rule R172: a valid day-string set gives 42 bytes, bit `s mod 8` of byte
`6*d + s div 8` set exactly when slot `s` of day `d` is `'1'`. -/
def Obligations.ProgramEncode : Prop :=
  ∀ (days : List Str) (s : State),
    days.length = 7 → (∀ day ∈ days, day.length = 48) →
    (∀ day ∈ days, ∀ c ∈ day, c = '0' ∨ c = '1') →
    ∃ p : List Byte,
      exec (.prgEnc days) s = .next { s with st := .ok, res := some (.bytes p) } ∧
      p.length = 42 ∧
      ∀ (d n : Nat) (day : Str), d < 7 → n < 48 → days[d]? = some day →
        ∃ b : Byte, p[6 * d + n / 8]? = some b ∧
          (b.toNat / 2 ^ (n % 8) % 2 = 1 ↔ day[n]? = some '1')

/-- Rule R172, rule R198 (D11, D12): a wrong number of strings or a string not of 48
characters is `BadLength`, whatever the characters; with every length right, a character other
than `'0'` and `'1'` is `BadChar`. Both are the spec's decisions (assumption 17). -/
def Obligations.ProgramEncodeFailures : Prop :=
  ∀ (days : List Str) (s : State),
    ((days.length ≠ 7 ∨ ∃ day ∈ days, day.length ≠ 48) →
      exec (.prgEnc days) s = .next { s with st := .failed .badLength, res := none }) ∧
    (days.length = 7 → (∀ day ∈ days, day.length = 48) →
      (∃ day ∈ days, ∃ c ∈ day, c ≠ '0' ∧ c ≠ '1') →
      exec (.prgEnc days) s = .next { s with st := .failed .badChar, res := none })

/-- Rule R173: decoding the encoding of a valid day-string set gives the set back, the second
operation issued from any state. -/
def Obligations.ProgramRoundTripDays : Prop :=
  ∀ (days : List Str) (s u : State),
    days.length = 7 → (∀ day ∈ days, day.length = 48) →
    (∀ day ∈ days, ∀ c ∈ day, c = '0' ∨ c = '1') →
    ∃ p, exec (.prgEnc days) s = .next { s with st := .ok, res := some (.bytes p) } ∧
      exec (.prgDec p) u = .next { u with st := .ok, res := some (.days days) }

/-- Rule R173, its second half (marked derived there): encoding the decoding of 42 bytes gives
the bytes back; every bitmap is a valid program. -/
def Obligations.ProgramRoundTripBytes : Prop :=
  ∀ (bytes42 : List Byte) (s u : State), bytes42.length = 42 →
    ∃ days, exec (.prgDec bytes42) s = .next { s with st := .ok, res := some (.days days) } ∧
      exec (.prgEnc days) u = .next { u with st := .ok, res := some (.bytes bytes42) }

/-- Rule R174 (marked derived there): day `d` depends only on bytes `6d` to `6d + 5`, and those
bytes only on day-string `d`. -/
def Obligations.ProgramLocality : Prop :=
  (∀ (p q : List Byte) (s t t' : State) (ds ds' : List Str) (d : Nat), d < 7 →
    exec (.prgDec p) s = .next t → t.res = some (.days ds) →
    exec (.prgDec q) s = .next t' → t'.res = some (.days ds') →
    (∀ k, 6 * d ≤ k → k ≤ 6 * d + 5 → p[k]? = q[k]?) → ds[d]? = ds'[d]?) ∧
  (∀ (ds ds' : List Str) (s t t' : State) (p q : List Byte) (d : Nat), d < 7 →
    exec (.prgEnc ds) s = .next t → t.res = some (.bytes p) →
    exec (.prgEnc ds') s = .next t' → t'.res = some (.bytes q) →
    ds[d]? = ds'[d]? → ∀ k, 6 * d ≤ k → k ≤ 6 * d + 5 → p[k]? = q[k]?)

/-! ## The whole machine -/

/-- Rule R11 (D14), rule R190 (D13): an operation ends with `OK` and a result of its family's
type, or, for the three that can fail, with one of their failures and none. No rule speaks of a
frame row here: that none of the five ever answers next is the model's deduction (assumption 7). -/
def Obligations.OutcomesByFamily : Prop :=
  ∀ (i : Instr) (s t : State), exec i s = .next t →
    match i with
    | .crc _ => t.st = .ok ∧ ∃ c, t.res = some (.crc8 c)
    | .bldRd _ | .bldSv _ _ | .bldSw _ _ | .litStatus | .litSettings | .litAutoOn | .litAutoOff =>
      t.st = .ok ∧ ∃ h, t.res = some (.hex h)
    | .decSt _ =>
      (t.st = .ok ∧ ∃ r, t.res = some (.record r)) ∨ (t.st = .failed .tooShort ∧ t.res = none)
    | .prgDec _ =>
      (t.st = .ok ∧ ∃ d, t.res = some (.days d)) ∨ (t.st = .failed .badLength ∧ t.res = none)
    | .prgEnc _ =>
      (t.st = .ok ∧ ∃ p, t.res = some (.bytes p)) ∨
      ((t.st = .failed .badLength ∨ t.st = .failed .badChar) ∧ t.res = none)
    | .frameRead _ _ _ | .frameSetParam _ _ _ _ _ | .frameSetSwitch _ _ _ _
    | .frameStatusQuery _ _ | .frameSettingsQuery _ _ => False

/-- Rule R190 (D13, assumption 18): the numeric codes of `ST`. -/
def Obligations.StatusCodes : Prop :=
  statusCode .ok = 0 ∧ statusCode (.failed .tooShort) = 1 ∧
  statusCode (.failed .badLength) = 2 ∧ statusCode (.failed .badChar) = 3 ∧
  ∀ a b : Status, statusCode a = statusCode b → a = b

/-- Rule R200, rule R201: a failing operation writes `ST` and `RES` and nothing else: no
partial result, no other effect. -/
def Obligations.FailuresAreClean : Prop :=
  ∀ (i : Instr) (s t : State) (f : Failure), exec i s = .next t → t.st = .failed f →
    t = { s with st := .failed f, res := none }

/-- Rule R202: an operation's outcome does not depend on the status and the result left by
what ran before it, so a failure does not stick. -/
def Obligations.NothingSticks : Prop :=
  ∀ (i : Instr) (s : State) (st : Status) (res : Option Result),
    exec i { s with st := st, res := res } = exec i s

/-- Rule R10, rule R24: an operation reads no state. From two states with equal constants,
whatever they hold in `ST`, `RES` and `ACC`, it ends alike, and with the same `ST` and `RES`;
only `DEC.ST` needs the draws (assumption 4) to be alike too. -/
def Obligations.OperationsReadNoState : Prop :=
  ∀ (i : Instr) (s u : State), s.params = u.params →
    ((∃ values, i = .decSt values) → s.draws = u.draws) →
    (∀ t, exec i s = .next t → ∃ t', exec i u = .next t' ∧ t'.st = t.st ∧ t'.res = t.res) ∧
    (∀ r, exec i s = .refused r → exec i u = .refused r)

/-- Rule R36, rule R24: an operation issued again, from the state it left, leaves that same
state; where `DEC.ST` has made a draw, the exception of rule R24, nothing is claimed. -/
def Obligations.OperationsAreIdempotent : Prop :=
  ∀ (i : Instr) (s t : State), exec i s = .next t → t.draws = s.draws → exec i t = .next t

/-- What every operation leaves as it was (rule R10, rule R18, rule R22): the constants and
the host's list; `ACC` unless it computes a CRC (assumption 11); the count of draws unless it is
`DEC.ST`. The list and the count are the model's own fields (assumptions 4, 5). -/
def Obligations.OperationFrame : Prop :=
  ∀ (i : Instr) (s t : State), exec i s = .next t →
    t.params = s.params ∧ t.host = s.host ∧
    (t.acc = s.acc ∨ (∃ l, i = .crc l) ∨ (∃ p, i = .bldRd p) ∨ (∃ p v, i = .bldSv p v) ∨
      (∃ p b, i = .bldSw p b)) ∧
    (t.draws = s.draws ∨ ∃ l, i = .decSt l)

/-- Rule R221, rule R18: the table and the literals have the same content after every step. -/
def Obligations.ConstantsNeverChange : Prop :=
  ∀ s t : State, step s = .next t → t.params = s.params

/-- Where `exec` refuses, and with what, and nowhere else: `BLD.SV` outside its range, as rule
R196 (a) says (D7, assumption 19), and the five frame rows, which no rule lists among the
refusals: theirs is the model's deduction from rule R206 and rule R69 (assumption 7). That
nothing ends in a fault is the model's reading of rule R200 and rule R38 (assumption 8). -/
def Obligations.RefusalsExactly : Prop :=
  ∀ (i : Instr) (s : State),
    (∀ r, exec i s = .refused r ↔
      (∃ p v, i = .bldSv p v ∧ (v < -32768 ∨ 65535 < v) ∧ r = .valueOutOfRange v) ∨
      (((∃ a b c, i = .frameRead a b c) ∨ (∃ a b c d e, i = .frameSetParam a b c d e) ∨
        (∃ a b c d, i = .frameSetSwitch a b c d) ∨ (∃ a b, i = .frameStatusQuery a b) ∨
        (∃ a b, i = .frameSettingsQuery a b)) ∧ r = .frameIsNoTransaction)) ∧
    (∀ f, exec i s ≠ .fault f)

/-- The invariant holds at reset (rule R23). -/
def Obligations.InvariantAtReset : Prop := State.reset.Inv

/-- Rule R11, rule R17, rule R200: every step keeps the invariant, from every state that meets
it: `RES` holds none or a value of its type, and none after a failure. -/
def Obligations.StepKeepsInvariant : Prop :=
  ∀ s t : State, s.Inv → step s = .next t → t.Inv
end

