-- ==== Sys2Proof/Laws/State.lean ====
section
/-!
SUPPORT. One lemma per field per update of the state, true by rfl.
-/

namespace Sys2Proof.Machine

open Sys2Proof

@[simp] theorem complete_st (r : Result) (s : State) : (complete r s).st = .ok := rfl
@[simp] theorem complete_res (r : Result) (s : State) : (complete r s).res = some r := rfl
@[simp] theorem complete_acc (r : Result) (s : State) : (complete r s).acc = s.acc := rfl
@[simp] theorem complete_params (r : Result) (s : State) : (complete r s).params = s.params := rfl
@[simp] theorem complete_host (r : Result) (s : State) : (complete r s).host = s.host := rfl
@[simp] theorem complete_draws (r : Result) (s : State) : (complete r s).draws = s.draws := rfl

@[simp] theorem raise_st (f : Failure) (s : State) : (raise f s).st = .failed f := rfl
@[simp] theorem raise_res (f : Failure) (s : State) : (raise f s).res = none := rfl
@[simp] theorem raise_acc (f : Failure) (s : State) : (raise f s).acc = s.acc := rfl
@[simp] theorem raise_params (f : Failure) (s : State) : (raise f s).params = s.params := rfl
@[simp] theorem raise_host (f : Failure) (s : State) : (raise f s).host = s.host := rfl
@[simp] theorem raise_draws (f : Failure) (s : State) : (raise f s).draws = s.draws := rfl

@[simp] theorem applyReset_st (s : State) : (applyReset s).st = .ok := rfl
@[simp] theorem applyReset_res (s : State) : (applyReset s).res = none := rfl
@[simp] theorem applyReset_acc (s : State) : (applyReset s).acc = 0 := rfl
@[simp] theorem applyReset_params (s : State) : (applyReset s).params = s.params := rfl
@[simp] theorem applyReset_host (s : State) : (applyReset s).host = s.host := rfl
@[simp] theorem applyReset_draws (s : State) : (applyReset s).draws = s.draws := rfl

@[simp] theorem accStep_st (s : State) (b : Byte) : (accStep s b).st = s.st := rfl
@[simp] theorem accStep_res (s : State) (b : Byte) : (accStep s b).res = s.res := rfl
@[simp] theorem accStep_acc (s : State) (b : Byte) : (accStep s b).acc = crcStep s.params.table s.acc b := rfl
@[simp] theorem accStep_params (s : State) (b : Byte) : (accStep s b).params = s.params := rfl
@[simp] theorem accStep_host (s : State) (b : Byte) : (accStep s b).host = s.host := rfl
@[simp] theorem accStep_draws (s : State) (b : Byte) : (accStep s b).draws = s.draws := rfl

@[simp] theorem takeDraw_st (v : Payload) (s : State) : ((takeDraw v s).2).st = s.st := rfl
@[simp] theorem takeDraw_res (v : Payload) (s : State) : ((takeDraw v s).2).res = s.res := rfl
@[simp] theorem takeDraw_acc (v : Payload) (s : State) : ((takeDraw v s).2).acc = s.acc := rfl
@[simp] theorem takeDraw_params (v : Payload) (s : State) : ((takeDraw v s).2).params = s.params := rfl
@[simp] theorem takeDraw_host (v : Payload) (s : State) : ((takeDraw v s).2).host = s.host := rfl
@[simp] theorem takeDraw_draws (v : Payload) (s : State) : ((takeDraw v s).2).draws = if drawsTie v then s.draws + 1 else s.draws := rfl

@[simp] theorem takeDraw_up (v : Payload) (s : State) :
    (takeDraw v s).1 = Config.roundTie s.draws (feederSeconds v) := rfl

@[simp] theorem reset_st : State.reset.st = .ok := rfl
@[simp] theorem reset_res : State.reset.res = none := rfl
@[simp] theorem reset_params : State.reset.params = defaultParams := rfl
@[simp] theorem reset_host : State.reset.host = [] := rfl

/-- Ending an operation forgets the status and the result that stood before. -/
@[simp] theorem complete_forgets (r : Result) (st : Status) (res : Option Result) (s : State) :
    complete r { s with st := st, res := res } = complete r s := rfl

/-- A failure forgets the status and the result that stood before (rule R202). -/
@[simp] theorem raise_forgets (f : Failure) (st : Status) (res : Option Result) (s : State) :
    raise f { s with st := st, res := res } = raise f s := rfl

end Sys2Proof.Machine
end

