-- ==== Sys2Proof/Laws/Crc.lean ====
section
/-!
SUPPORT. What the CRC engine does, said once: running it is setting `ACC` to the fold of rule
R81 and nothing else; and the facts of the default table.
-/

namespace Sys2Proof.Machine

open Sys2Proof

theorem crc_nil (table : Vector Byte 256) : crc table [] = 0 := rfl

theorem crc_append_singleton (table : Vector Byte 256) (xs : List Byte) (b : Byte) :
    crc table (xs ++ [b]) = crcStep table (crc table xs) b := by
  simp [crc]

/-- The loop of rule R81 from any state: only `ACC` moves, and as the fold moves it. -/
theorem foldl_accStep (bytes : List Byte) (s : State) :
    bytes.foldl accStep s = { s with acc := bytes.foldl (crcStep s.params.table) s.acc } := by
  induction bytes generalizing s with
  | nil => rfl
  | cons b bs ih => simpa using ih (accStep s b)

/-- Everything the engine does: `ACC` holds the CRC of the bytes, the rest stands. -/
theorem runCrc_eq (bytes : List Byte) (s : State) :
    runCrc bytes s = { s with acc := crc s.params.table bytes } :=
  foldl_accStep bytes { s with acc := 0 }

@[simp] theorem runCrc_acc (bytes : List Byte) (s : State) :
    (runCrc bytes s).acc = crc s.params.table bytes := by rw [runCrc_eq]

@[simp] theorem runCrc_params (bytes : List Byte) (s : State) :
    (runCrc bytes s).params = s.params := by rw [runCrc_eq]

/-- Entry 0 of the default table (rule R83). -/
theorem defaultTable_zero : defaultTable[0] = 0 := by decide

end Sys2Proof.Machine
end

