-- ==== Sys2Proof/Laws/Decode.lean ====
section
/-!
SUPPORT. The frame patterns of rule R69 on the heads the serializer makes, and what a matched
pattern says of the bytes.
-/

namespace Sys2Proof

@[simp] theorem classifyFrame_read :
    ∀ p : Byte, classifyFrame (packFirst8 2#8 1#8 0#8 1#8 0#8 p 0#8 0#8) = some .read := by
  decide

@[simp] theorem classifyFrame_setParam :
    ∀ p : Byte, classifyFrame (packFirst8 2#8 1#8 0#8 2#8 0#8 p 2#8 0#8) = some .setParam := by
  decide

@[simp] theorem classifyFrame_setSwitch :
    ∀ p : Byte, classifyFrame (packFirst8 2#8 1#8 0#8 5#8 0#8 p 1#8 0#8) = some .setSwitch := by
  decide

@[simp] theorem classifyFrame_statusQuery :
    classifyFrame (packFirst8 2#8 1#8 0#8 6#8 0#8 0#8 0#8 0#8) = some .statusQuery := by decide

@[simp] theorem classifyFrame_settingsQuery :
    classifyFrame (packFirst8 2#8 1#8 0#8 5#8 0#8 22#8 0#8 0#8) = some .settingsQuery := by decide

/-- A classified frame has its kind's pattern (rule R69). -/
theorem classifyFrame_some {w : BitVec 64} {k : FrameKind} (h : classifyFrame w = some k) :
    w &&& frameMask k = frameMatch k := by
  have := List.find?_some h
  simpa [frameIsKind] using this

/-- Byte `k` of the packed number is byte `k` of the frame (rule R69). -/
theorem packFirst8_byte (b0 b1 b2 b3 b4 b5 b6 b7 : Byte) :
    (packFirst8 b0 b1 b2 b3 b4 b5 b6 b7).extractLsb' 56 8 = b0 ∧
    (packFirst8 b0 b1 b2 b3 b4 b5 b6 b7).extractLsb' 48 8 = b1 ∧
    (packFirst8 b0 b1 b2 b3 b4 b5 b6 b7).extractLsb' 40 8 = b2 ∧
    (packFirst8 b0 b1 b2 b3 b4 b5 b6 b7).extractLsb' 32 8 = b3 ∧
    (packFirst8 b0 b1 b2 b3 b4 b5 b6 b7).extractLsb' 24 8 = b4 ∧
    (packFirst8 b0 b1 b2 b3 b4 b5 b6 b7).extractLsb' 16 8 = b5 ∧
    (packFirst8 b0 b1 b2 b3 b4 b5 b6 b7).extractLsb' 8 8 = b6 ∧
    (packFirst8 b0 b1 b2 b3 b4 b5 b6 b7).extractLsb' 0 8 = b7 := by
  refine ⟨?_, ?_, ?_, ?_, ?_, ?_, ?_, ?_⟩ <;>
  · apply BitVec.eq_of_getLsbD_eq
    intro i hi
    simp only [packFirst8, BitVec.getLsbD_extractLsb', BitVec.getLsbD_append, hi, decide_true,
      Bool.true_and]
    interval_cases i <;> simp

/-- The bytes of a masked number, one at a time. -/
theorem byte_of_masked {w m x : BitVec 64} (h : w &&& m = x) (at_ : Nat) :
    w.extractLsb' at_ 8 &&& m.extractLsb' at_ 8 = x.extractLsb' at_ 8 := by
  rw [← h, BitVec.extractLsb'_and]

end Sys2Proof
end

