-- ==== Sys2Proof/Laws/Operands.lean ====
section
/-!
SUPPORT. The arithmetic reading of the operand forms: what each combination of bytes is as a
number, and what a checked operand's elements are.
-/

namespace Sys2Proof.Machine

open Sys2Proof

/-- An element of the payload is the element of the reply at that offset (rule R37). -/
theorem payloadOf_getElem (values : List Byte) (h : 86 ≤ values.length) (k : Nat)
    (hk : k < 86) :
    (payloadOf values h)[k] = values[k]'(by omega) := by
  simp [payloadOf]

/-- An element of the bitmap is the byte of the sequence at that index. -/
theorem bitmapOf_getElem (bytes42 : List Byte) (h : bytes42.length = 42) (k : Nat)
    (hk : k < 42) :
    (bitmapOf bytes42 h)[k] = bytes42[k]'(by omega) := by
  simp [bitmapOf]

/-- Or-ing in a number above the bits of another adds it. -/
theorem or_shift (a b k : Nat) (h : a < 2 ^ k) : a ||| (b <<< k) = a + 2 ^ k * b := by
  rw [Nat.or_comm, Nat.shiftLeft_eq, Nat.mul_comm b, ← Nat.two_pow_add_eq_or_of_lt h, Nat.add_comm]

theorem u16le_toNat (lo hi : Byte) : (u16le lo hi).toNat = lo.toNat + 256 * hi.toNat := by
  have hl := lo.isLt
  have hh := hi.isLt
  have h2 : lo.toNat ||| (hi.toNat <<< 8) = lo.toNat + 256 * hi.toNat := or_shift _ _ 8 hl
  simp only [u16le, BitVec.toNat_or, BitVec.toNat_shiftLeft, BitVec.toNat_setWidth]
  rw [Nat.mod_eq_of_lt (by omega : lo.toNat < 2 ^ 16), Nat.mod_eq_of_lt (by omega : hi.toNat < 2 ^ 16),
    Nat.mod_eq_of_lt (by rw [Nat.shiftLeft_eq]; omega), h2]

theorem u24split_toNat (b0 b1 b2 : Byte) :
    (u24split b0 b1 b2).toNat = b0.toNat + 256 * b1.toNat + 65536 * b2.toNat := by
  have h0 := b0.isLt
  have h1 := b1.isLt
  have h2 := b2.isLt
  have e1 : b0.toNat ||| (b1.toNat <<< 8) = b0.toNat + 256 * b1.toNat := or_shift _ _ 8 h0
  have e2 : (b0.toNat + 256 * b1.toNat) ||| (b2.toNat <<< 16)
      = b0.toNat + 256 * b1.toNat + 65536 * b2.toNat := or_shift _ _ 16 (by omega)
  simp only [u24split, BitVec.toNat_or, BitVec.toNat_shiftLeft, BitVec.toNat_setWidth]
  rw [Nat.mod_eq_of_lt (by omega : b0.toNat < 2 ^ 24), Nat.mod_eq_of_lt (by omega : b1.toNat < 2 ^ 24),
    Nat.mod_eq_of_lt (by omega : b2.toNat < 2 ^ 24),
    Nat.mod_eq_of_lt (by rw [Nat.shiftLeft_eq]; omega),
    Nat.mod_eq_of_lt (by rw [Nat.shiftLeft_eq]; omega), e1, e2]

theorem u32le_toNat (b0 b1 b2 b3 : Byte) :
    (u32le b0 b1 b2 b3).toNat
      = b0.toNat + 256 * b1.toNat + 65536 * b2.toNat + 16777216 * b3.toNat := by
  have h0 := b0.isLt
  have h1 := b1.isLt
  have h2 := b2.isLt
  have h3 := b3.isLt
  have e1 : b0.toNat ||| (b1.toNat <<< 8) = b0.toNat + 256 * b1.toNat := or_shift _ _ 8 h0
  have e2 : (b0.toNat + 256 * b1.toNat) ||| (b2.toNat <<< 16)
      = b0.toNat + 256 * b1.toNat + 65536 * b2.toNat := or_shift _ _ 16 (by omega)
  have e3 : (b0.toNat + 256 * b1.toNat + 65536 * b2.toNat) ||| (b3.toNat <<< 24)
      = b0.toNat + 256 * b1.toNat + 65536 * b2.toNat + 16777216 * b3.toNat :=
    or_shift _ _ 24 (by omega)
  simp only [u32le, BitVec.toNat_or, BitVec.toNat_shiftLeft, BitVec.toNat_setWidth]
  rw [Nat.mod_eq_of_lt (by omega : b0.toNat < 2 ^ 32), Nat.mod_eq_of_lt (by omega : b1.toNat < 2 ^ 32),
    Nat.mod_eq_of_lt (by omega : b2.toNat < 2 ^ 32), Nat.mod_eq_of_lt (by omega : b3.toNat < 2 ^ 32),
    Nat.mod_eq_of_lt (by rw [Nat.shiftLeft_eq]; omega),
    Nat.mod_eq_of_lt (by rw [Nat.shiftLeft_eq]; omega),
    Nat.mod_eq_of_lt (by rw [Nat.shiftLeft_eq]; omega), e1, e2, e3]

/-- `temp16` is the one `s16` congruent to the little-endian number (rule R122, rule R123). -/
theorem temp16_spec (lo hi : Byte) :
    -32768 ≤ temp16 lo hi ∧ temp16 lo hi ≤ 32767 ∧
    temp16 lo hi % 65536 = (lo.toNat : Int) + 256 * hi.toNat := by
  have hl := lo.isLt
  have hh := hi.isLt
  simp only [temp16, s16le, sext16, u16le_toNat]
  split <;> omega

/-- The bit test as bit access (rule R126). -/
theorem bit_eq_getLsbD (b : Byte) (i : Nat) (hi : i < 8) : bit b i = b.getLsbD i := by
  unfold bit
  interval_cases i <;> revert b <;> decide

/-- The folded value, in range (rule R57). -/
theorem foldValue_lt (value : Int) : foldValue value < 65536 := by
  unfold foldValue; omega

theorem foldValue_cast (value : Int) : (foldValue value : Int) = value % 65536 := by
  unfold foldValue; omega

/-- The low and the high byte of a number below 65536 (rule R56, rule R57). -/
theorem lowHigh_toNat (n : Nat) (h : n < 65536) :
    (BitVec.ofNat 8 (n &&& 0xFF)).toNat + 256 * (BitVec.ofNat 8 (n >>> 8)).toNat = n := by
  have h1 : n &&& 0xFF = n % 2 ^ 8 := Nat.and_two_pow_sub_one_eq_mod n 8
  rw [h1, Nat.shiftRight_eq_div_pow]
  simp only [BitVec.toNat_ofNat]
  omega

/-- The calendar test as inequalities (rule R128). -/
theorem validDate_iff (y mo d h mi s : Nat) : validDate y mo d h mi s = true ↔
    (1 ≤ mo ∧ mo ≤ 12) ∧ 1 ≤ d ∧ d ≤ 31 ∧
    ((mo = 4 ∨ mo = 6 ∨ mo = 9 ∨ mo = 11) → d ≤ 30) ∧
    (mo = 2 → d ≤ 29 ∧ (d = 29 → ((y % 4 = 0 ∧ y % 100 ≠ 0) ∨ y % 400 = 0))) ∧
    h ≤ 23 ∧ mi ≤ 59 ∧ s ≤ 59 := by
  have hl : leap y = true ↔ ((y % 4 = 0 ∧ y % 100 ≠ 0) ∨ y % 400 = 0) := by simp [leap]
  simp only [validDate, Bool.and_eq_true, decide_eq_true_eq]
  by_cases h2 : mo = 2
  · by_cases h3 : leap y = true
    · have := hl.mp h3
      simp only [show daysInMonth y mo = 29 by simp [daysInMonth, h2, h3]]; omega
    · have := mt hl.mpr h3
      simp only [show daysInMonth y mo = 28 by simp [daysInMonth, h2, h3]]; omega
  · by_cases h4 : mo = 4 ∨ mo = 6 ∨ mo = 9 ∨ mo = 11
    · simp only [show daysInMonth y mo = 30 by simp [daysInMonth, h2, h4]]; omega
    · simp only [show daysInMonth y mo = 31 by simp [daysInMonth, h2, h4]]; omega

/-- The range of `BLD.SV` as inequalities (rule R93). -/
theorem valueAdmitted_iff (v : Int) : valueAdmitted v = true ↔ -32768 ≤ v ∧ v ≤ 65535 := by
  simp [valueAdmitted]

/-- The feeder minutes are one of the two neighbours (rule R150). -/
theorem minuteTenths_spec (secs : BitVec 32) (up : Bool) :
    (secs.toNat % 6 ≤ 2 → minuteTenths secs up = secs.toNat / 6) ∧
    (4 ≤ secs.toNat % 6 → minuteTenths secs up = secs.toNat / 6 + 1) ∧
    (secs.toNat % 6 = 3 → minuteTenths secs up = if up then secs.toNat / 6 + 1 else secs.toNat / 6) := by
  simp only [minuteTenths]
  refine ⟨fun h => by simp [h], fun h => ?_, fun h => by simp [h]⟩
  rw [if_neg (by omega), if_neg (by omega)]

end Sys2Proof.Machine
end

