-- ==== Sys2Proof/Laws/Frame.lean ====
section
/-!
SUPPORT. The serializer's small lemmas: the hex string's length and characters, what the
shared builder does, the literals as data.
-/

namespace Sys2Proof.Machine

open Sys2Proof

@[simp] theorem hexStr_nil : hexStr [] = [] := rfl

@[simp] theorem hexStr_cons (b : Byte) (f : List Byte) : hexStr (b :: f) = hexByte b ++ hexStr f := rfl

@[simp] theorem hexByte_length (b : Byte) : (hexByte b).length = 2 := rfl

theorem hexStr_length (f : List Byte) : (hexStr f).length = 2 * f.length := by
  induction f with
  | nil => rfl
  | cons b f ih => simp [ih]; omega

/-- Two nibbles with one digit are one nibble. -/
theorem hexDigit_injective : ∀ a b : Nibble, hexDigit a = hexDigit b → a = b := by decide

/-- A hex digit is in the lowercase alphabet (rule R31). -/
theorem hexDigit_mem : ∀ a : Nibble, hexDigit a ∈ "0123456789abcdef".toList := by decide

theorem hexByte_injective : ∀ a b : Byte, hexByte a = hexByte b → a = b := by
  intro a b h
  have h1 := hexDigit_injective _ _ (List.cons.inj h).1
  have h2 := hexDigit_injective _ _ (List.cons.inj (List.cons.inj h).2).1
  have e1 := congrArg BitVec.toNat h1
  have e2 := congrArg BitVec.toNat h2
  have low : ∀ n : Nat, n &&& 15 = n % 16 := fun n => Nat.and_two_pow_sub_one_eq_mod n 4
  have mask : (15 : Byte).toNat = 15 := rfl
  simp only [BitVec.toNat_setWidth, BitVec.toNat_ushiftRight, BitVec.toNat_and,
    Nat.shiftRight_eq_div_pow, Nat.reducePow, mask, low] at e1 e2
  apply BitVec.eq_of_toNat_eq
  have ha := a.isLt
  have hb := b.isLt
  omega

/-- The hex string determines the bytes. -/
theorem hexStr_injective : ∀ f g : List Byte, hexStr f = hexStr g → f = g := by
  intro f
  induction f with
  | nil =>
    intro g h
    cases g with
    | nil => rfl
    | cons b g => exact absurd (congrArg List.length h) (by simp; omega)
  | cons a f ih =>
    intro g h
    cases g with
    | nil => exact absurd (congrArg List.length h) (by simp)
    | cons b g =>
      obtain ⟨h1, h2⟩ := List.append_inj h (by simp)
      rw [hexByte_injective a b h1, ih g h2]

/-- Every character of a hex string is in the lowercase alphabet (rule R91). -/
theorem hexStr_mem (f : List Byte) : ∀ c ∈ hexStr f, c ∈ "0123456789abcdef".toList := by
  intro c hc
  obtain ⟨b, -, hb⟩ := List.mem_flatMap.mp hc
  simp only [hexByte, List.mem_cons, List.not_mem_nil, or_false] at hb
  obtain rfl | rfl := hb <;> exact hexDigit_mem _

/-- Everything the shared builder does: the CRC of the body goes to `ACC`, the hex string of
the wrapped body to `RES`, `OK` to `ST`. -/
theorem buildFrame_eq (cmd param : Byte) (data : List Byte) (s : State) :
    buildFrame cmd param data s =
      { s with
        st := .ok
        acc := crc s.params.table (frameBody cmd 0x00 param data)
        res := some (.hex (hexStr (frameBytes s.params.table cmd 0x00 param data))) } := by
  simp [buildFrame, runCrc_eq, complete, frameBytes]

end Sys2Proof.Machine
end

