-- ==== Sys2Proof/Laws/Program.lean ====
section
/-!
SUPPORT. The weekly-program map in both directions, bit by bit (rule R170): what a slot's
character is, and what a packed byte's bit is.
-/

namespace Sys2Proof.Machine

open Sys2Proof

theorem daysOf_length (b : Bitmap) : (daysOf b).length = 7 := by simp [daysOf]

/-- The character at index `s` of day-string `d` (rule R171). -/
theorem daysOf_getElem? (b : Bitmap) (d s : Nat) (hd : d < 7) (hs : s < 48) :
    ((daysOf b)[d]?.bind (fun day => day[s]?)) = some (slotChar b ⟨d, hd⟩ ⟨s, hs⟩) := by
  simp [daysOf, hd, hs]

/-- Every day-string has 48 characters (rule R11). -/
theorem daysOf_mem_length (b : Bitmap) : ∀ day ∈ daysOf b, day.length = 48 := by
  intro day h
  obtain ⟨d, -, rfl⟩ := List.mem_map.mp h
  simp

/-- Every character is `'0'` or `'1'` (rule R11). -/
theorem slotChar_mem (b : Bitmap) (d : Fin 7) (s : Fin 48) :
    slotChar b d s = '0' ∨ slotChar b d s = '1' := by
  unfold slotChar; split <;> simp

/-- Or-ing in one bit per slot that is set: bit `n` of the outcome. -/
theorem foldl_orBit_getLsbD (p : Nat → Bool) (l : List Nat) (out : Byte) (n : Nat) (hn : n < 8) :
    (l.foldl (fun out m => if p m then out ||| ((1 : Byte) <<< m) else out) out).getLsbD n
      = (out.getLsbD n || (decide (n ∈ l) && p n)) := by
  induction l generalizing out with
  | nil => simp
  | cons m l ih =>
    rw [List.foldl_cons, ih]
    have one : ((1 : Byte) <<< m).getLsbD n = decide (n = m) := by
      by_cases h : n < m
      · simp [h, show n ≠ m by omega]
      · rcases Nat.eq_or_lt_of_le (Nat.not_lt.mp h) with rfl | h'
        · simp [hn]
        · have : n - m ≠ 0 := by omega
          simp [hn, h, this, show n ≠ m by omega]
    by_cases hp : p m
    · simp only [hp, if_true, BitVec.getLsbD_or, one, List.mem_cons]
      by_cases hnm : n = m
      · subst hnm; simp [hp]
      · simp [hnm]
    · by_cases hnm : n = m
      · subst hnm; simp [hp]
      · simp [hp, hnm]

/-- Bit `n` of packed byte `k` is slot `8*(k mod 6) + n` of day `k div 6` (rule R170). -/
theorem packedByte_getLsbD (days : List Str) (k n : Nat) (hn : n < 8) :
    (packedByte days k).getLsbD n = slotSet days (k / 6) (8 * (k % 6) + n) := by
  unfold packedByte
  rw [foldl_orBit_getLsbD (fun n => slotSet days (k / 6) (8 * (k % 6) + n)) _ _ _ hn]
  simp [hn]

theorem bytesOf_length (days : List Str) : (bytesOf days).length = 42 := by
  simp [bytesOf]

theorem bytesOf_getElem? (days : List Str) (k : Nat) (hk : k < 42) :
    (bytesOf days)[k]? = some (packedByte days k) := by
  simp [bytesOf, hk]

end Sys2Proof.Machine
end

