-- ==== Sys2Proof/Laws/Exec.lean ====
section
/-!
SUPPORT. What an operation can do, said once: it ends with a result or with a failure, and
beyond `ST` and `RES` it moves at most `ACC` (the operations that compute a CRC) and the count
of draws (`DEC.ST`). And what one event of the host can do.
-/

namespace Sys2Proof.Machine

open Sys2Proof

/-- The two ends of `DEC.ST` (rule R120). -/
theorem execDecSt_long (values : List Byte) (s : State) (h : 86 ≤ values.length) :
    execDecSt values s =
      .next (complete (.record (recordOf (payloadOf values h)
          (Config.roundTie s.draws (feederSeconds (payloadOf values h)))))
        (takeDraw (payloadOf values h) s).2) := by
  simp [execDecSt, h]

theorem execDecSt_short (values : List Byte) (s : State) (h : ¬ 86 ≤ values.length) :
    execDecSt values s = .next (raise .tooShort s) := by
  simp [execDecSt, h]

/-- The two ends of `PRG.DEC` (rule R171). -/
theorem execPrgDec_right (bytes42 : List Byte) (s : State) (h : bytes42.length = 42) :
    execPrgDec bytes42 s = .next (complete (.days (daysOf (bitmapOf bytes42 h))) s) := by
  simp [execPrgDec, h]

theorem execPrgDec_wrong (bytes42 : List Byte) (s : State) (h : ¬ bytes42.length = 42) :
    execPrgDec bytes42 s = .next (raise .badLength s) := by
  simp [execPrgDec, h]

/-- How an operation that answers a next state ends. -/
inductive Ending (s t : State) : Prop where
  /-- With a result over a state in which only `ACC` may have moved. -/
  | computed (r : Result) (acc : Byte) (h : t = complete r { s with acc := acc })
  /-- With a record; only the count of draws may have moved. -/
  | decoded (v : Payload) (up : Bool) (draws : Nat)
      (h : t = complete (.record (recordOf v up)) { s with draws := draws })
  /-- With a failure and nothing else. -/
  | failed (f : Failure) (h : t = raise f s)

/-- Every next state of `exec` is one of the endings. -/
theorem exec_ending {i : Instr} {s t : State} (h : exec i s = .next t) : Ending s t := by
  cases i with
  | crc bytes =>
    simp only [exec, execCrc, runCrc_eq, Host.Outcome.next.injEq] at h
    exact .computed _ _ h.symm
  | bldRd p =>
    simp only [exec, execBldRd, buildFrame, runCrc_eq, Host.Outcome.next.injEq] at h
    exact .computed _ _ h.symm
  | bldSv p v =>
    simp only [exec, execBldSv, buildFrame, runCrc_eq] at h
    split at h
    · simp only [Host.Outcome.next.injEq] at h
      exact .computed _ _ h.symm
    · cases h
  | bldSw p b =>
    simp only [exec, execBldSw, buildFrame, runCrc_eq, Host.Outcome.next.injEq] at h
    exact .computed _ _ h.symm
  | litStatus => exact .computed _ s.acc (Host.Outcome.next.inj h).symm
  | litSettings => exact .computed _ s.acc (Host.Outcome.next.inj h).symm
  | litAutoOn => exact .computed _ s.acc (Host.Outcome.next.inj h).symm
  | litAutoOff => exact .computed _ s.acc (Host.Outcome.next.inj h).symm
  | decSt values =>
    by_cases hl : 86 ≤ values.length
    · exact .decoded _ _ _ (Host.Outcome.next.inj ((execDecSt_long values s hl).symm.trans h)).symm
    · exact .failed _ (Host.Outcome.next.inj ((execDecSt_short values s hl).symm.trans h)).symm
  | prgDec bytes42 =>
    by_cases hl : bytes42.length = 42
    · exact .computed _ s.acc (Host.Outcome.next.inj ((execPrgDec_right bytes42 s hl).symm.trans h)).symm
    · exact .failed _ (Host.Outcome.next.inj ((execPrgDec_wrong bytes42 s hl).symm.trans h)).symm
  | prgEnc days =>
    simp only [exec, execPrgEnc] at h
    split at h
    · split at h
      · exact .computed _ s.acc (Host.Outcome.next.inj h).symm
      · exact .failed _ (Host.Outcome.next.inj h).symm
    · exact .failed _ (Host.Outcome.next.inj h).symm
  | frameRead _ _ _ => cases h
  | frameSetParam _ _ _ _ _ => cases h
  | frameSetSwitch _ _ _ _ => cases h
  | frameStatusQuery _ _ => cases h
  | frameSettingsQuery _ _ => cases h

/-- Everything one event of the host can lead to when it answers a next state: the block
stands, is reset, or has run one decoded operation. -/
theorem hostEvent_cases {e : HostEvent} {s t : State} (h : hostEvent e s = .next t) :
    t = s ∨ t = applyReset s ∨ ∃ r i, e = .issue r ∧ decode r = .ok i ∧ exec i s = .next t := by
  cases e with
  | issue r =>
    simp only [hostEvent, issueRequest] at h
    split at h
    · cases h
    · split at h
      · exact .inr (.inr ⟨r, _, rfl, ‹_›, h⟩)
      · cases h
  | readRes =>
    simp only [hostEvent, hostReadRes] at h
    split at h
    · exact .inl (Host.Outcome.next.inj h).symm
    · cases h
  | readSt => exact .inl (Host.Outcome.next.inj h).symm
  | reset => exact .inr (.inl (Host.Outcome.next.inj h).symm)

/-- Everything a step can lead to when it answers a next state. -/
theorem step_cases {s t : State} (h : step s = .next t) :
    t = s ∨ ∃ e rest, s.host = e :: rest ∧ hostEvent e { s with host := rest } = .next t := by
  unfold step nextEvent at h
  split at h
  · exact .inl (Host.Outcome.next.inj h).symm
  · exact .inr ⟨_, _, ‹_›, h⟩

end Sys2Proof.Machine
end

