-- ==== Sys2Proof/Laws/PerInstr.lean ====
section
/-!
SUPPORT. Statements about every instruction as syntax, one lemma per constructor: an
operation's transaction carries the select code of rule R51, a frame's bytes the pattern of
its row (rule R69).
-/

namespace Sys2Proof.Laws

open Sys2Proof

/-- The select code of an operation (rule R51); a frame has none. -/
def opselOf (i : Instr) : Option Byte :=
  match i with
  | .crc _ => some 0x00
  | .bldRd _ => some 0x01
  | .bldSv _ _ => some 0x02
  | .bldSw _ _ => some 0x03
  | .litStatus => some 0x04
  | .litSettings => some 0x05
  | .litAutoOn => some 0x06
  | .litAutoOff => some 0x07
  | .decSt _ => some 0x08
  | .prgDec _ => some 0x09
  | .prgEnc _ => some 0x0A
  | .frameRead _ _ _ => none
  | .frameSetParam _ _ _ _ _ => none
  | .frameSetSwitch _ _ _ _ => none
  | .frameStatusQuery _ _ => none
  | .frameSettingsQuery _ _ => none

/-- The encoding of an instruction carries its row's code: the select code where it has one,
else a frame of at least ten bytes. -/
def CarriesCode.Statement (i : Instr) : Prop :=
  (∃ c operands, opselOf i = some c ∧ encode i = .op c operands) ∨
  (∃ bytes, opselOf i = none ∧ encode i = .frame bytes ∧ 10 ≤ bytes.length)

namespace CarriesCode

theorem crc (bytes : List Byte) : Statement (.crc bytes) := .inl ⟨_, _, rfl, rfl⟩
theorem bldRd (param : Byte) : Statement (.bldRd param) := .inl ⟨_, _, rfl, rfl⟩
theorem bldSv (param : Byte) (value : Int) : Statement (.bldSv param value) :=
  .inl ⟨_, _, rfl, rfl⟩
theorem bldSw (param : Byte) (on : Bool) : Statement (.bldSw param on) := .inl ⟨_, _, rfl, rfl⟩
theorem litStatus : Statement .litStatus := .inl ⟨_, _, rfl, rfl⟩
theorem litSettings : Statement .litSettings := .inl ⟨_, _, rfl, rfl⟩
theorem litAutoOn : Statement .litAutoOn := .inl ⟨_, _, rfl, rfl⟩
theorem litAutoOff : Statement .litAutoOff := .inl ⟨_, _, rfl, rfl⟩
theorem decSt (values : List Byte) : Statement (.decSt values) := .inl ⟨_, _, rfl, rfl⟩
theorem prgDec (bytes42 : List Byte) : Statement (.prgDec bytes42) := .inl ⟨_, _, rfl, rfl⟩
theorem prgEnc (days : List Str) : Statement (.prgEnc days) := .inl ⟨_, _, rfl, rfl⟩
theorem frameRead (param crcByte etx : Byte) : Statement (.frameRead param crcByte etx) :=
  .inr ⟨_, rfl, rfl, by simp [frameHead]⟩
theorem frameSetParam (param lo hi crcByte etx : Byte) :
    Statement (.frameSetParam param lo hi crcByte etx) :=
  .inr ⟨_, rfl, rfl, by simp [frameHead]⟩
theorem frameSetSwitch (param data crcByte etx : Byte) :
    Statement (.frameSetSwitch param data crcByte etx) :=
  .inr ⟨_, rfl, rfl, by simp [frameHead]⟩
theorem frameStatusQuery (crcByte etx : Byte) : Statement (.frameStatusQuery crcByte etx) :=
  .inr ⟨_, rfl, rfl, by simp [frameHead]⟩
theorem frameSettingsQuery (crcByte etx : Byte) : Statement (.frameSettingsQuery crcByte etx) :=
  .inr ⟨_, rfl, rfl, by simp [frameHead]⟩

end CarriesCode

end Sys2Proof.Laws
end

