-- ==== Sys2Proof/Tests/Slice0.lean ====
section
/-!
SUPPORT. Small tests. Every expected value is the spec's own: the encodings of spec/30_encoding.md
and spec/opcode_table.json, the worked examples of the rules and the vectors of
spec/95_test_vectors.md. And a witness for the hypotheses of every obligation that has some.
-/

namespace Sys2Proof.Machine.Tests

open Sys2Proof Sys2Proof.Machine

/-! ## Helpers -/

/-- `RES` after an outcome. -/
def resAfter (o : Host.Outcome State Fault Refusal) : Option Result :=
  match o with
  | .next t => t.res
  | .fault _ => none
  | .refused _ => none

/-- `ST` after an outcome. -/
def stAfter (o : Host.Outcome State Fault Refusal) : Option Status :=
  match o with
  | .next t => some t.st
  | .fault _ => none
  | .refused _ => none

/-- The refusal of an outcome. -/
def refusalAfter (o : Host.Outcome State Fault Refusal) : Option Refusal :=
  match o with
  | .next _ => none
  | .fault _ => none
  | .refused r => some r

/-- The instruction a request decodes to. -/
def decoded (r : Request) : Option Instr :=
  match decode r with
  | .ok i => some i
  | .error _ => none

/-- The machine right after reset with a list of host events pending. -/
def pending (l : List HostEvent) : State := { State.reset with host := l }

/-- `SAMPLE` of spec/95_test_vectors.md section 2.4. -/
def sample : List Byte :=
  ([0x02, 0x01, 0x00, 0x06, 0x00, 0x00, 0x4C, 0x00, 0x00, 0x00, 0x00, 0x01, 0x00, 0x00, 0x00, 0xFF]
    : List Byte) ++
  [0xD7, 0x00, 0xFF, 0xFF, 0x64, 0x00, 0x00, 0x80, 0xFF, 0x7F, 0x00, 0x00, 0x8F, 0x02, 0xCE, 0xFF] ++
  [0xA5, 0x03, 0x01, 0x02, 0x04, 0x41, 0x2D, 0x26, 0x00, 0x01, 0x01, 0x02, 0x18, 0x02, 0x1D, 0x17] ++
  [0x3B, 0x3A, 0x00, 0x07, 0x01, 0x00, 0x01, 0xD2, 0x00, 0xB9, 0x00, 0x05, 0x0A, 0x81, 0x34, 0x12] ++
  [0x8D, 0x0E, 0x00, 0x00, 0x17, 0x0D, 0x01, 0x08, 0x1E, 0x10, 0x00, 0x50, 0x23, 0x01, 0x2C, 0x01] ++
  [0xFA, 0x00, 0x00, 0x01, 0x00, 0x03]

/-- The record of a reply, no draw taken upward. -/
def recordOfList (values : List Byte) : Option StatusRecord :=
  if h : 86 ≤ values.length then some (recordOf (payloadOf values h) false) else none

/-- `Z` of spec/95_test_vectors.md section 2.5. -/
def zeroDay : Str := List.replicate 48 '0'

/-- 48 times `'1'`. -/
def oneDay : Str := List.replicate 48 '1'

/-! ## WellFormed: each check refuses an ill-formed term -/

theorem test_wf_i32_below : (Instr.bldSv 0 (-2147483649)).wellFormed = false := by decide
theorem test_wf_i32_above : (Instr.bldSv 0 2147483648).wellFormed = false := by decide
theorem test_wf_read_etx : (Instr.frameRead 0 0 0x02).wellFormed = false := by decide
theorem test_wf_setParam_etx : (Instr.frameSetParam 0 0 0 0 0x00).wellFormed = false := by decide
theorem test_wf_switch_byte : (Instr.frameSetSwitch 0 0x02 0 0x03).wellFormed = false := by decide
theorem test_wf_switch_etx : (Instr.frameSetSwitch 0 0x01 0 0x04).wellFormed = false := by decide
theorem test_wf_status_crc : (Instr.frameStatusQuery 0x60 0x03).wellFormed = false := by decide
theorem test_wf_status_etx : (Instr.frameStatusQuery 0x61 0x00).wellFormed = false := by decide
theorem test_wf_settings_crc : (Instr.frameSettingsQuery 0x61 0x03).wellFormed = false := by decide
theorem test_wf_settings_etx : (Instr.frameSettingsQuery 0x24 0x30).wellFormed = false := by decide

/-! ## Decoding: a word or transaction of every row, written out from the spec -/

theorem test_decode_crc : decoded (.op 0x00 [.bytes [1, 2]]) = some (.crc [1, 2]) := by decide
theorem test_decode_bldRd : decoded (.op 0x01 [.u8 0x18]) = some (.bldRd 24) := by decide
theorem test_decode_bldSv : decoded (.op 0x02 [.u8 40, .i32 (-1)]) = some (.bldSv 40 (-1)) := by
  decide
theorem test_decode_bldSw : decoded (.op 0x03 [.u8 19, .flag true]) = some (.bldSw 19 true) := by
  decide
theorem test_decode_litStatus : decoded (.op 0x04 []) = some .litStatus := by decide
theorem test_decode_litSettings : decoded (.op 0x05 []) = some .litSettings := by decide
theorem test_decode_litAutoOn : decoded (.op 0x06 []) = some .litAutoOn := by decide
theorem test_decode_litAutoOff : decoded (.op 0x07 []) = some .litAutoOff := by decide
theorem test_decode_decSt : decoded (.op 0x08 [.bytes [7]]) = some (.decSt [7]) := by decide
theorem test_decode_prgDec : decoded (.op 0x09 [.bytes [7]]) = some (.prgDec [7]) := by decide
theorem test_decode_prgEnc : decoded (.op 0x0A [.strings [['0']]]) = some (.prgEnc [['0']]) := by
  decide

/-- `BLD.RD 24`'s frame (section 2.2). -/
theorem test_decode_frameRead :
    decoded (.frame [0x02, 0x01, 0x00, 0x01, 0x00, 0x18, 0x00, 0x00, 0xCC, 0x03]) =
      some (.frameRead 0x18 0xCC 0x03) := by decide
/-- `BLD.SV 40, 65`'s frame (section 2.2). -/
theorem test_decode_frameSetParam :
    decoded (.frame [0x02, 0x01, 0x00, 0x02, 0x00, 0x28, 0x02, 0x00, 0x41, 0x00, 0xEA, 0x03]) =
      some (.frameSetParam 0x28 0x41 0x00 0xEA 0x03) := by decide
/-- `BLD.SW 19, 1`'s frame (section 2.2). -/
theorem test_decode_frameSetSwitch :
    decoded (.frame [0x02, 0x01, 0x00, 0x05, 0x00, 0x13, 0x01, 0x00, 0x01, 0xA0, 0x03]) =
      some (.frameSetSwitch 0x13 0x01 0xA0 0x03) := by decide
/-- The status literal's bytes (rule R95). -/
theorem test_decode_frameStatusQuery :
    decoded (.frame [0x02, 0x01, 0x00, 0x06, 0x00, 0x00, 0x00, 0x00, 0x61, 0x03]) =
      some (.frameStatusQuery 0x61 0x03) := by decide
/-- The settings literal's bytes (rule R96). -/
theorem test_decode_frameSettingsQuery :
    decoded (.frame [0x02, 0x01, 0x00, 0x05, 0x00, 0x16, 0x00, 0x00, 0x24, 0x03]) =
      some (.frameSettingsQuery 0x24 0x03) := by decide

/-- The table's eleven OP words give their rows. -/
theorem test_table_op :
    (List.range 11).map (decodeTableWord 8) =
      [some (.crc []), some (.bldRd 0), some (.bldSv 0 0), some (.bldSw 0 false), some .litStatus,
       some .litSettings, some .litAutoOn, some .litAutoOff, some (.decSt []), some (.prgDec []),
       some (.prgEnc [])] := by decide
/-- The five FRAME words of the table, with byte 5 set where it is free. -/
theorem test_table_frame :
    [0x0201000100280000, 0x0201000200280200, 0x0201000500130100, 0x0201000600000000,
     0x0201000500160000].map (decodeTableWord 64) =
      [some (.frameRead 0x28 0 0), some (.frameSetParam 0x28 0 0 0 0),
       some (.frameSetSwitch 0x13 0 0 0), some (.frameStatusQuery 0 0),
       some (.frameSettingsQuery 0 0)] := by decide
/-- Unassigned select codes (rule R63) and an unassigned `CMD` (rule R62) give nothing. -/
theorem test_table_unassigned :
    [decodeTableWord 8 0x0B, decodeTableWord 8 0xFF, decodeTableWord 64 0x0201000300000000,
     decodeTableWord 64 0x0201000600010000] = [none, none, none, none] := by decide
/-- A nonzero `CMD2` (rule R61) and a `LEN` that does not fit the bytes (rule R66). -/
theorem test_decode_frame_refused :
    decode (.frame [0x02, 0x01, 0x00, 0x01, 0x02, 0x18, 0x00, 0x00, 0xCC, 0x03]) =
      .error .unknownFrame ∧
    decode (.frame [0x02, 0x01, 0x00, 0x02, 0x00, 0x28, 0x02, 0x00, 0x41, 0xEA, 0x03]) =
      .error .frameLength := by decide
/-- Operands of the wrong type or out of the `i32` range (rule R50, rule R6). -/
theorem test_decode_operands_refused :
    decode (.op 0x01 [.flag true]) = .error (.operandMismatch 0x01) ∧
    decode (.op 0x02 [.u8 0, .i32 2147483648]) = .error (.notI32 2147483648) := by decide

/-- The step after `withFetchWord` runs the row's instruction: `LIT.STATUS`, from reset. -/
theorem test_step_withFetchWord :
    resAfter (step (State.reset.withFetchWord 8 0x04)) =
      some (.hex "02010006000000006103".toList) := by decide

/-! ## The operations: worked examples and vectors of the spec -/

/-- The worked example of rule R82, the accumulator's last value. -/
theorem test_crc_status :
    resAfter (exec (.crc [0x01, 0x00, 0x06, 0x00, 0x00, 0x00, 0x00]) State.reset) =
      some (.crc8 0x61) := by decide
/-- Section 2.1: `00 00 01` gives 0x31, `FF` gives 0xAC. -/
theorem test_crc_vectors :
    resAfter (exec (.crc [0x00, 0x00, 0x01]) State.reset) = some (.crc8 0x31) ∧
    resAfter (exec (.crc [0xFF]) State.reset) = some (.crc8 0xAC) := by decide

theorem test_bldRd :
    resAfter (exec (.bldRd 24) State.reset) = some (.hex "0201000100180000cc03".toList) := by decide
theorem test_bldRd_255 :
    resAfter (exec (.bldRd 255) State.reset) = some (.hex "0201000100ff00007103".toList) := by decide
/-- The low byte stands before the high byte. -/
theorem test_bldSv_256 :
    resAfter (exec (.bldSv 29 256) State.reset) =
      some (.hex "02010002001d02000001ee03".toList) := by decide
theorem test_bldSv_low_end :
    resAfter (exec (.bldSv 17 (-32768)) State.reset) =
      some (.hex "020100020011020000808403".toList) := by decide
theorem test_bldSw_on :
    resAfter (exec (.bldSw 19 true) State.reset) =
      some (.hex "020100050013010001a003".toList) := by decide
theorem test_bldSw_off :
    resAfter (exec (.bldSw 0x33 false) State.reset) =
      some (.hex "020100050033010000e103".toList) := by decide
theorem test_litStatus :
    resAfter (exec .litStatus State.reset) = some (.hex "02010006000000006103".toList) := by decide
theorem test_litSettings :
    resAfter (exec .litSettings State.reset) = some (.hex "02010005001600002403".toList) := by decide
/-- The OPEN literals: whatever digits the parameters hold, in hex. -/
theorem test_litAuto :
    resAfter (exec .litAutoOn { State.reset with
      params := { defaultParams with litAutoOn := [0x0, 0xA, 0xF] } }) =
      some (.hex "0af".toList) ∧
    resAfter (exec .litAutoOff { State.reset with
      params := { defaultParams with litAutoOff := [0x9] } }) = some (.hex "9".toList) := by decide

/-- `temp16` (rule R122): the two ends and the source's examples S6, S7. -/
theorem test_temp16 :
    [temp16 0xFF 0xFF, temp16 0x64 0x00, temp16 0x00 0x80, temp16 0xFF 0x7F] =
      [-1, 100, -32768, 32767] := by decide
/-- The two predicates of rule R127 are not one. -/
theorem test_predicates : [isone 1, isone 2, nonzero 2, nonzero 0] = [true, false, true, false] := by
  decide
/-- Leap years (rule R128): 2024-02-29, 2100-02-29, 2144-02-29, 2000-02-29. -/
theorem test_leap_days :
    [validDate 2024 2 29 23 59 58, validDate 2100 2 29 0 0 0, validDate 2144 2 29 0 0 0,
     validDate 2000 2 29 0 0 0, validDate 2024 4 31 0 0 0] = [true, false, true, true, false] := by
  decide
/-- Rule R150's examples: 3725 s, 60 s, 59 s, and both ways of the tie at 3 s. -/
theorem test_minute_tenths :
    [minuteTenths 3725 false, minuteTenths 60 true, minuteTenths 59 false, minuteTenths 3 false,
     minuteTenths 3 true] = [621, 10, 10, 0, 1] := by decide

set_option maxRecDepth 4000 in
/-- `DEC.ST SAMPLE`: the record that section 2.4 lists, field by field. -/
theorem test_decSt_sample :
    recordOfList sample = some {
      sensorHealth := #v[0, 0, 0, 1, 0, 0, 0, 255]
      sensorTemp := #v[215, -1, 100, -32768, 32767, 0, 655, -50]
      output := #v[true, false, true, false, false, true, false, true]
      heatingState := 3, autoMode := true, setpointMode := 2, cwuMode := 4
      targetBoilerTemp := 65, targetDhwTemp := 45, airPumpPower := 38
      alarmsRaw := 256, alarmActive := true, mixerCircuit := 1, authLevel := 2
      datetime := some ⟨2024, 2, 29, 23, 59, 58⟩
      coLoweredActive := false, cwuLoweredActive := true
      roomHeating := 1, internalSetpoint := 0, dayNight := 1
      roomDayTemp := 210, roomNightTemp := 185, loweredAmount0 := 5, loweredAmount1 := 10
      inputsRaw := 129, alarms2Raw := 4660
      feederRuntimeS := 3725, feederRuntimeMinTenths := 621
      fuelLoadDate := none, fuelRemaining := 65552, fuelLoadPct := 80, feedingPct := 35
      floorDayTemp := 300, floorNightTemp := 250, floorDayNight := 0, isSummer := true } := by
  decide +kernel

/-- 85 elements are too short (rule R120). -/
theorem test_decSt_short :
    stAfter (exec (.decSt (sample.take 85)) State.reset) = some (.failed .tooShort) ∧
    resAfter (exec (.decSt (sample.take 85)) State.reset) = none := by decide

set_option maxRecDepth 8000 in
/-- Rule R171's worked example: bytes 0 to 5 = 00 F0 FF FF FF 0F. -/
theorem test_prgDec :
    (match resAfter (exec (.prgDec ([0x00, 0xF0, 0xFF, 0xFF, 0xFF, 0x0F] ++ List.replicate 36 0))
        State.reset) with
      | some (.days d) => d.head?
      | _ => none) =
      some "000000000000111111111111111111111111111111110000".toList := by decide +kernel
theorem test_prgDec_lengths :
    stAfter (exec (.prgDec (List.replicate 41 0)) State.reset) = some (.failed .badLength) ∧
    stAfter (exec (.prgDec (List.replicate 43 0)) State.reset) = some (.failed .badLength) := by
  decide
set_option maxRecDepth 8000 in
/-- Rule R172's worked example: day 3 has `'1'` at index 9 only. -/
theorem test_prgEnc :
    resAfter (exec (.prgEnc ([zeroDay, zeroDay, zeroDay, zeroDay.set 9 '1'] ++
      List.replicate 3 zeroDay)) State.reset) =
      some (.bytes ((List.replicate 42 0).set 19 0x02)) := by decide +kernel
set_option maxRecDepth 8000 in
/-- Section 2.5: length tests come before character tests (rule R198). -/
theorem test_prgEnc_order :
    stAfter (exec (.prgEnc (["0".toList, zeroDay.set 0 'x'] ++ List.replicate 5 zeroDay))
      State.reset) = some (.failed .badLength) ∧
    stAfter (exec (.prgEnc ([zeroDay.set 5 '2'] ++ List.replicate 6 zeroDay)) State.reset) =
      some (.failed .badChar) := by decide +kernel

/-- A frame laid before the block is refused (rule R206). -/
theorem test_frame_refused :
    refusalAfter (exec (.frameRead 0x18 0xCC 0x03) State.reset) = some .frameIsNoTransaction ∧
    refusalAfter (exec (.frameSetParam 0x28 0x41 0 0xEA 0x03) State.reset) =
      some .frameIsNoTransaction ∧
    refusalAfter (exec (.frameSetSwitch 0x13 1 0xA0 0x03) State.reset) =
      some .frameIsNoTransaction ∧
    refusalAfter (exec (.frameStatusQuery 0x61 0x03) State.reset) = some .frameIsNoTransaction ∧
    refusalAfter (exec (.frameSettingsQuery 0x24 0x03) State.reset) =
      some .frameIsNoTransaction := by decide

/-- Section 2.6: a refused `BLD.SV 40, 65536` leaves `RES` and `ST` as they were. -/
theorem test_refusal_keeps_state :
    (afterEvent { pending [.issue (.op 0x02 [.u8 40, .i32 65536])] with res := some (.crc8 7) }).res
      = some (.crc8 7) ∧
    refusalAfter (step (pending [.issue (.op 0x02 [.u8 40, .i32 65536])])) =
      some (.valueOutOfRange 65536) := by decide
/-- Section 2.6: a host read of `RES` right after reset. -/
theorem test_empty_read : refusalAfter (step (pending [.readRes])) = some .emptyRead := by decide

/-! ## A witness for the hypotheses of every obligation that has some -/

theorem witness_ResetEventRestores :
    (pending [.reset, .readSt]).host = .reset :: [.readSt] := rfl
theorem witness_StepRunsDecodedOperation :
    (pending [.issue (.op 0x01 [.u8 24])]).host = .issue (.op 0x01 [.u8 24]) :: [] ∧
    decode (.op 0x01 [.u8 24]) = .ok (.bldRd 24) ∧ (Instr.bldRd 24).wellFormed = true ∧
    fitsBound (pending []).params.nmax (.bldRd 24) = true := by decide
/-- The bound at its edge: a sequence of exactly `NMAX` elements fits. -/
theorem witness_StepRunsDecodedOperation_bound :
    fitsBound (some 2) (.crc [1, 2]) = true ∧ fitsBound (some 2) (.crc [1, 2, 3]) = false := by
  decide
theorem witness_ResultReads :
    (pending [.readRes]).host = .readRes :: [] ∧ (pending [.readRes]).res = none ∧
    ({ pending [.readRes] with res := some (.crc8 0) } : State).res = some (.crc8 0) := by decide
theorem witness_IdleAndStatusReads :
    State.reset.host = [] ∧ (pending [.readSt]).host = .readSt :: [] := by decide
theorem witness_UnassignedCodesRefused :
    0x0B ≤ (0x0B : Byte).toNat ∧ 0x0B ≤ (0xFF : Byte).toNat ∧
    (pending [.issue (.op 0x0B [])]).host = .issue (.op 0x0B []) :: [] := by decide
theorem witness_RefusalsWriteNothing : step (pending [.readRes]) = .refused .emptyRead := rfl
/-- The machine right after reset under the bound `NMAX` = 2, one request pending. -/
def bounded (r : Request) : State :=
  { pending [.issue r] with params := { defaultParams with nmax := some 2 } }

theorem witness_BoundedOperandsOnly :
    (bounded (.op 0x08 [.bytes [1, 2, 3]])).params.nmax = some 2 ∧
    2 < ([1, 2, 3] : List Byte).length ∧
    (bounded (.op 0x08 [.bytes [1, 2, 3]])).host = .issue (.op 0x08 [.bytes [1, 2, 3]]) :: [] := by
  decide
/-- `PRG.ENC` with one string too many, and with one string one character too long. -/
theorem witness_BoundedOperandsOnly_strings :
    (bounded (.op 0x0A [.strings [[], [], []]])).params.nmax = some 2 ∧
    2 < ([[], [], []] : List Str).length ∧
    (bounded (.op 0x0A [.strings [[], [], []]])).host =
      .issue (.op 0x0A [.strings [[], [], []]]) :: [] ∧
    ¬ 2 < (["01".toList, "010".toList] : List Str).length ∧
    (∃ day ∈ (["01".toList, "010".toList] : List Str), 2 < day.length) ∧
    (bounded (.op 0x0A [.strings ["01".toList, "010".toList]])).host =
      .issue (.op 0x0A [.strings ["01".toList, "010".toList]]) :: [] := by decide
/-- At the bound itself the operation runs. -/
theorem test_bound_edge :
    refusalAfter (step (bounded (.op 0x0A [.strings ["01".toList, "010".toList]]))) =
      some .operandTooLong ∧
    stAfter (step (bounded (.op 0x0A [.strings ["01".toList, "01".toList]]))) =
      some (.failed .badLength) := by decide
theorem witness_SelectCodesDecode :
    -2147483648 ≤ (-2147483648 : Int) ∧ (-2147483648 : Int) ≤ 2147483647 ∧
    -2147483648 ≤ (2147483647 : Int) ∧ (2147483647 : Int) ≤ 2147483647 := by decide
/-- Well-formed instructions of every restricted kind, the `i32` range at both ends. -/
theorem witness_DecodeAfterEncode :
    [Instr.crc [], .bldSv 0 (-2147483648), .bldSv 255 2147483647, .frameRead 1 2 3,
     .frameSetParam 1 2 3 4 3, .frameSetSwitch 1 0 2 3, .frameSetSwitch 1 1 2 3,
     .frameStatusQuery 0x61 3, .frameSettingsQuery 0x24 3].all Instr.wellFormed = true := by decide
theorem witness_EncodeAfterDecode :
    decode (.op 0x02 [.u8 17, .i32 2147483647]) = .ok (.bldSv 17 2147483647) ∧
    decode (.frame [0x02, 0x01, 0x00, 0x05, 0x00, 0x16, 0x00, 0x00, 0x24, 0x03]) =
      .ok (.frameSettingsQuery 0x24 0x03) := by decide
theorem witness_FramePatternsDisjoint :
    frameIsKind 0x0201000500130100 .setSwitch = true ∧
    frameIsKind 0x0201000500160000 .settingsQuery = true := by decide
theorem witness_CrcLawsDefaultTable : State.reset.params.table = defaultTable := rfl
theorem witness_HexSerialization :
    ([0x02, 0xFF] : List Byte)[0]? = some 0x02 ∧ ([0x02, 0xFF] : List Byte)[1]? = some 0xFF := by
  decide
theorem witness_FrameLayout :
    ([] : List Byte).length ≤ 65535 ∧ (List.replicate 65535 (0 : Byte)).length ≤ 65535 :=
  ⟨by decide, List.length_replicate.le⟩
theorem witness_BuildSetValue :
    (-32768 ≤ (-32768 : Int) ∧ (-32768 : Int) ≤ 65535) ∧
    (-32768 ≤ (65535 : Int) ∧ (65535 : Int) ≤ 65535) := by decide
theorem witness_SetValueOutOfRangeRefused :
    ((-32769 : Int) < -32768 ∨ 65535 < (-32769 : Int)) ∧
    ((65536 : Int) < -32768 ∨ 65535 < (65536 : Int)) := by decide
theorem witness_SetValueFoldsModulo :
    -32768 ≤ (-1 : Int) ∧ (-1 : Int) ≤ 65535 ∧ -32768 ≤ (65535 : Int) ∧ (65535 : Int) ≤ 65535 ∧
    (-1 : Int) % 65536 = 65535 % 65536 := by decide
theorem witness_BuiltFrameInvariants :
    (∃ t, exec (.bldRd 6) State.reset = .next t) ∧
    (∃ t, exec (.bldSv 17 65535) State.reset = .next t) ∧
    (∃ t, exec (.bldSw 0x33 true) State.reset = .next t) := ⟨⟨_, rfl⟩, ⟨_, rfl⟩, ⟨_, rfl⟩⟩
theorem witness_BuildersNeverGiveQueryLiterals :
    (∃ p, Instr.bldRd 6 = .bldRd p) ∧ ∃ t, exec (.bldRd 6) State.reset = .next t :=
  ⟨⟨_, rfl⟩, _, rfl⟩
/-- Two literals that differ, each with a character to speak of. -/
theorem witness_AutoModeLiteralOperations :
    let s : State := { State.reset with
      params := { defaultParams with litAutoOn := [0x0, 0xA], litAutoOff := [0xF] } }
    'a' ∈ s.params.litAutoOn.map hexDigit ∧ 'f' ∈ s.params.litAutoOff.map hexDigit := by decide
theorem witness_BuiltFramesMatchRows :
    (-32768 ≤ (-32768 : Int) ∧ (-32768 : Int) ≤ 65535) ∧
    (-32768 ≤ (65535 : Int) ∧ (65535 : Int) ≤ 65535) := by decide

theorem witness_StatusDecodeOutcomes :
    ([] : List Byte).length < 86 ∧ (sample.take 85).length < 86 ∧ 86 ≤ sample.length ∧
    86 ≤ (sample ++ [0xAA, 0xBB, 0xCC]).length := by decide

/-- The element function of `SAMPLE`. -/
def sampleAt (k : Nat) : Byte := sample.getD k 0

theorem sample_elements : ∀ k, k < 86 → sample[k]? = some (sampleAt k) := by decide +kernel

theorem witness_StatusRawFields : ∀ k, k < 86 → sample[k]? = some (sampleAt k) := sample_elements
theorem witness_StatusCounters : ∀ k, k < 86 → sample[k]? = some (sampleAt k) := sample_elements
theorem witness_StatusTemperatures : ∀ k, k < 86 → sample[k]? = some (sampleAt k) :=
  sample_elements
theorem witness_StatusFlags : ∀ k, k < 86 → sample[k]? = some (sampleAt k) := sample_elements
theorem witness_StatusLoweredFlags : ∀ k, k < 86 → sample[k]? = some (sampleAt k) :=
  sample_elements

/-- A reply whose two dates are at the ends of their ranges: 2255-12-31 23:59:59 and
2000-01-01 00:00 (the load date); `SAMPLE` has a valid date-time and an invalid load date. -/
def datedAt (k : Nat) : Byte :=
  match k with
  | 44 => 0xFF | 45 => 12 | 46 => 31 | 47 => 23 | 48 => 59 | 49 => 59
  | 68 => 0 | 69 => 1 | 70 => 1 | 71 => 0 | 72 => 0
  | _ => 0

theorem witness_StatusDates : ∀ k, k < 86 → ((List.range 86).map datedAt)[k]? = some (datedAt k) := by
  decide +kernel
/-- Both clauses of both dates are met: by this reply, by `SAMPLE` and by the zero reply. -/
theorem witness_StatusDates_clauses :
    validDate (2000 + (datedAt 44).toNat) (datedAt 45).toNat (datedAt 46).toNat (datedAt 47).toNat
      (datedAt 48).toNat (datedAt 49).toNat = true ∧
    validDate (2000 + (datedAt 68).toNat) (datedAt 69).toNat (datedAt 70).toNat (datedAt 71).toNat
      (datedAt 72).toNat 0 = true ∧
    validDate 2000 0 0 0 0 0 = false ∧
    validDate (2000 + (sampleAt 68).toNat) (sampleAt 69).toNat (sampleAt 70).toNat
      (sampleAt 71).toNat (sampleAt 72).toNat 0 = false := by decide
theorem witness_StatusFeederMinutes :
    86 ≤ sample.length ∧ (u32le 0x02 0 0 0).toNat % 6 = 2 ∧ (u32le 0x03 0 0 0).toNat % 6 = 3 ∧
    (u32le 0x04 0 0 0).toNat % 6 = 4 ∧ (u32le 0xFF 0xFF 0xFF 0xFF).toNat % 6 = 3 := by decide
theorem witness_StatusUnreadOffsets :
    86 ≤ sample.length ∧ 86 ≤ ((sample.set 7 0xFF).set 84 0xFF ++ [0xAA]).length ∧
    (∀ k, k < 84 → 8 ≤ k → sample[k]? = ((sample.set 7 0xFF).set 84 0xFF ++ [0xAA])[k]?) := by
  decide +kernel
theorem witness_StatusFieldIndependence :
    ∃ t t' r r', exec (.decSt sample) State.reset = .next t ∧ t.res = some (.record r) ∧
      exec (.decSt (sample.set 45 13)) State.reset = .next t' ∧ t'.res = some (.record r') ∧
      (∀ k, k < 45 → sample[k]? = (sample.set 45 13)[k]?) :=
  ⟨_, _, _, _, execDecSt_long sample State.reset (by decide), rfl,
    execDecSt_long (sample.set 45 13) State.reset (by decide), rfl, by decide +kernel⟩
theorem witness_InvalidDateBlanksOneField :
    86 ≤ sample.length ∧ ((0 : Byte) = 0 ∨ 13 ≤ (0 : Byte).toNat) ∧
    ((13 : Byte) = 0 ∨ 13 ≤ (13 : Byte).toNat) := by decide

theorem witness_ProgramDecode :
    (List.replicate 41 (0 : Byte)).length ≠ 42 ∧ (List.replicate 42 (0xFF : Byte)).length = 42 ∧
    (List.replicate 42 (0xFF : Byte))[6 * 6 + 47 / 8]? = some 0xFF := by decide

/-- A valid day-string set that is neither all `'0'` nor all `'1'`. -/
def week : List Str := [zeroDay, oneDay, zeroDay, oneDay, zeroDay, oneDay, zeroDay]

theorem week_valid :
    week.length = 7 ∧ (∀ day ∈ week, day.length = 48) ∧
    (∀ day ∈ week, ∀ c ∈ day, c = '0' ∨ c = '1') := by
  simp [week, zeroDay, oneDay]

theorem witness_ProgramEncode :
    week.length = 7 ∧ (∀ day ∈ week, day.length = 48) ∧
    (∀ day ∈ week, ∀ c ∈ day, c = '0' ∨ c = '1') := week_valid
theorem witness_ProgramEncodeFailures :
    (List.replicate 6 zeroDay).length ≠ 7 ∧ (List.replicate 8 zeroDay).length ≠ 7 ∧
    (∃ day ∈ week ++ ["1".toList], day.length ≠ 48) ∧
    (List.replicate 7 (zeroDay.set 47 ' ')).length = 7 ∧
    (∀ day ∈ List.replicate 7 (zeroDay.set 47 ' '), day.length = 48) ∧
    (∃ day ∈ List.replicate 7 (zeroDay.set 47 ' '), ∃ c ∈ day, c ≠ '0' ∧ c ≠ '1') := by
  refine ⟨by decide, by decide, ⟨"1".toList, by simp, by decide⟩, by decide, ?_, ?_⟩
  · simp [zeroDay]
  · exact ⟨zeroDay.set 47 ' ', by simp, ' ', by decide, by decide, by decide⟩
theorem witness_ProgramRoundTripDays :
    week.length = 7 ∧ (∀ day ∈ week, day.length = 48) ∧
    (∀ day ∈ week, ∀ c ∈ day, c = '0' ∨ c = '1') := week_valid
theorem witness_ProgramRoundTripBytes : (List.replicate 42 (0xA5 : Byte)).length = 42 := by decide
/-- Two bitmaps that agree on day 0 alone, and their two decodings. -/
theorem witness_ProgramLocality_decode :
    ∃ t t' ds ds', exec (.prgDec (List.replicate 42 0)) State.reset = .next t ∧
      t.res = some (.days ds) ∧
      exec (.prgDec (List.replicate 6 0 ++ List.replicate 36 1)) State.reset = .next t' ∧
      t'.res = some (.days ds') :=
  ⟨_, _, _, _, execPrgDec_right _ State.reset (by decide), rfl,
    execPrgDec_right _ State.reset (by decide), rfl⟩
/-- Two day-string sets that agree on day 6, and their two encodings. -/
theorem witness_ProgramLocality_encode :
    resAfter (exec (.prgEnc week) State.reset) = some (.bytes (bytesOf week)) ∧
    resAfter (exec (.prgEnc (List.replicate 7 zeroDay)) State.reset) =
      some (.bytes (bytesOf (List.replicate 7 zeroDay))) ∧
    week[6]? = (List.replicate 7 zeroDay)[6]? := by decide +kernel

theorem witness_OutcomesByFamily :
    ∃ t, exec (.decSt []) State.reset = .next t ∧ t.st = .failed .tooShort := ⟨_, rfl, rfl⟩
theorem witness_FailuresAreClean :
    ∃ t, exec (.prgDec []) State.reset = .next t ∧ t.st = .failed .badLength := ⟨_, rfl, rfl⟩
/-- Two states that differ in `ST`, `RES` and `ACC` alone, for an operation that reads none. -/
theorem witness_OperationsReadNoState :
    ({ State.reset with st := .failed .badChar, res := some (.crc8 9), acc := 77 } : State).params
      = State.reset.params ∧
    ({ State.reset with st := .failed .badChar, res := some (.crc8 9), acc := 77 } : State).draws
      = State.reset.draws ∧
    ∃ t, exec (.bldSw 19 true) State.reset = .next t := ⟨rfl, rfl, _, rfl⟩
theorem witness_OperationsAreIdempotent :
    ∃ t, exec (.crc [1, 2]) State.reset = .next t ∧ t.draws = State.reset.draws := ⟨_, rfl, rfl⟩
theorem witness_OperationFrame : ∃ t, exec (.bldSv 40 65) State.reset = .next t := ⟨_, rfl⟩
theorem witness_ConstantsNeverChange :
    ∃ t, step (pending [.issue (.op 0x00 [.bytes [1]])]) = .next t := ⟨_, rfl⟩
theorem witness_StepKeepsInvariant :
    (pending [.issue (.op 0x05 [])]).Inv ∧
    ∃ t, step (pending [.issue (.op 0x05 [])]) = .next t :=
  ⟨⟨(fun _ h => nomatch h), (fun _ h => nomatch h)⟩, _, rfl⟩

end Sys2Proof.Machine.Tests
end

section
/-!
PROOFS. The operation `CRC` (rule R80 to rule R82): its whole next state.
-/

namespace Sys2Proof.Machine

open Sys2Proof

/-- The fold of rule R81 with the step of rule R80 written out as the table lookup. -/
theorem crc_eq_foldl_lookup (table : Vector Byte 256) (bytes : List Byte) :
    crc table bytes =
      bytes.foldl (fun acc b => table[(acc ^^^ b).toNat]'((acc ^^^ b).isLt)) 0 := rfl

/-- Everything `CRC` does (rule R82): it always completes, and only `ST`, `RES` and `ACC` move. -/
theorem execCrc_eq (bytes : List Byte) (s : State) :
    execCrc bytes s =
      .next { s with
        st := .ok
        res := some (.crc8 (crc s.params.table bytes))
        acc := crc s.params.table bytes } := by
  rw [execCrc, runCrc_eq, complete]

theorem exec_crc (bytes : List Byte) (s : State) :
    exec (.crc bytes) s = execCrc bytes s := rfl

/-- Settles O13: the engine's loop over the state is the fold (`runCrc_eq`), so the operation's
next state is the one of `execCrc_eq`, read with the step written out. -/
theorem crcOperation : Obligations.CrcOperation := by
  intro bytes s c
  have hc : crc s.params.table bytes = c := crc_eq_foldl_lookup s.params.table bytes
  rw [exec_crc, execCrc_eq, hc]

end Sys2Proof.Machine
end

section
/-!
PROOFS. Hex serialization (rule R91): the two characters of the byte at a position.
-/

namespace Sys2Proof.Machine

open Sys2Proof

/-- The digit of a nibble is the character the lowercase alphabet has at its value (rule R31). -/
theorem some_hexDigit_eq_getElem? :
    ∀ a : Nibble, some (hexDigit a) = "0123456789abcdef".toList[a.toNat]? := by decide

theorem highNibble_toNat (b : Byte) : ((b >>> 4).setWidth 4 : Nibble).toNat = b.toNat / 16 := by
  have hb := b.isLt
  simp only [BitVec.toNat_setWidth, BitVec.toNat_ushiftRight, Nat.shiftRight_eq_div_pow]
  omega

theorem lowNibble_toNat (b : Byte) : ((b &&& 15).setWidth 4 : Nibble).toNat = b.toNat % 16 := by
  have mask : b.toNat &&& 15 = b.toNat % 16 := Nat.and_two_pow_sub_one_eq_mod b.toNat 4
  have h15 : (15 : Byte).toNat = 15 := rfl
  simp only [BitVec.toNat_setWidth, BitVec.toNat_and, h15, mask]
  omega

/-- Byte `k` stands in the hex string as characters `2k` and `2k+1`. -/
theorem hexStr_getElem?_of_getElem? {f : List Byte} {k : Nat} {b : Byte} (h : f[k]? = some b) :
    (hexStr f)[2 * k]? = some (hexDigit ((b >>> 4).setWidth 4)) ∧
    (hexStr f)[2 * k + 1]? = some (hexDigit ((b &&& 15).setWidth 4)) := by
  induction f generalizing k with
  | nil => simp at h
  | cons a f ih =>
    cases k with
    | zero =>
      obtain rfl : a = b := by simpa using h
      exact ⟨rfl, rfl⟩
    | succ k => exact ih (by simpa using h)

/-- Settles O17: the two characters of `hexStr_getElem?_of_getElem?`, each read as an entry of
the alphabet at the value of its nibble. -/
theorem hexSerialization : Obligations.HexSerialization := by
  intro f
  refine ⟨hexStr_length f, fun k b h => ?_⟩
  obtain ⟨high, low⟩ := hexStr_getElem?_of_getElem? h
  rw [high, low, some_hexDigit_eq_getElem?, some_hexDigit_eq_getElem?, highNibble_toNat,
    lowNibble_toNat]
  exact ⟨rfl, rfl⟩

end Sys2Proof.Machine
end

section
/-!
PROOFS. The layout of an assembled frame (rule R52 to rule R60, rule R90), and what every
builder's frame keeps of it (rule R99).
-/

namespace Sys2Proof.Machine

open Sys2Proof

/-- `LEN` is two bytes that give the length of DATA back, low byte first (rule R56). -/
theorem lenBytes_spec {data : List Byte} (h : data.length ≤ 65535) :
    ∃ lo hi : Byte, lenBytes data = [lo, hi] ∧ lo.toNat + 256 * hi.toNat = data.length :=
  ⟨_, _, rfl, lowHigh_toNat data.length (by omega)⟩

/-- Settles O18: by the definitions a frame is STX, the body, the body's CRC and ETX, and
`lenBytes_spec` names the body's two LEN bytes. -/
theorem frameLayout : Obligations.FrameLayout := by
  intro table cmd cmd2 cmd3 data h
  obtain ⟨lo, hi, hlen, hsum⟩ := lenBytes_spec h
  have body : frameBody cmd cmd2 cmd3 data = [0x01, 0x00, cmd, cmd2, cmd3, lo, hi] ++ data := by
    rw [frameBody, hlen]
    rfl
  refine ⟨lo, hi, hsum, ?_⟩
  rw [frameBytes, body]
  rfl

theorem frameBody_length (cmd cmd2 cmd3 : Byte) (data : List Byte) :
    (frameBody cmd cmd2 cmd3 data).length = 7 + data.length := by
  simp [frameBody, lenBytes]
  omega

section
variable (table : Vector Byte 256) (cmd cmd2 cmd3 : Byte) (data : List Byte)

/-- STX, then the covered bytes, then their CRC and ETX (rule R52, rule R60). -/
theorem frameBytes_eq_cons :
    frameBytes table cmd cmd2 cmd3 data =
      0x02 :: (frameBody cmd cmd2 cmd3 data ++ [crc table (frameBody cmd cmd2 cmd3 data), 0x03]) :=
  rfl

theorem frameBytes_length : (frameBytes table cmd cmd2 cmd3 data).length = 10 + data.length := by
  simp [frameBytes_eq_cons, frameBody_length]
  omega

theorem frameBytes_getLast? : (frameBytes table cmd cmd2 cmd3 data).getLast? = some 0x03 := by
  simp [frameBytes_eq_cons, List.getLast?_cons]

/-- Bytes 1 to `7 + n` are the body (rule R60). -/
theorem frameBytes_covered :
    ((frameBytes table cmd cmd2 cmd3 data).drop 1).take (7 + data.length) =
      frameBody cmd cmd2 cmd3 data := by
  rw [frameBytes_eq_cons, List.drop_one, List.tail_cons]
  exact List.take_left' (frameBody_length cmd cmd2 cmd3 data)

/-- Byte `8 + n` is the CRC of the body (rule R60). -/
theorem frameBytes_getElem?_crc :
    (frameBytes table cmd cmd2 cmd3 data)[8 + data.length]? =
      some (crc table (frameBody cmd cmd2 cmd3 data)) := by
  have pos : 8 + data.length = (frameBody cmd cmd2 cmd3 data).length + 1 := by
    rw [frameBody_length]
    omega
  rw [frameBytes_eq_cons, pos, List.getElem?_cons_succ, List.getElem?_append_right (Nat.le_refl _)]
  simp

end

/-- A builder that answers a next state has run the shared assembly, over at most two data
bytes (rule R92 to rule R94). -/
theorem exec_builder_eq {i : Instr} {s t : State}
    (builder : (∃ p, i = .bldRd p) ∨ (∃ p v, i = .bldSv p v) ∨ (∃ p b, i = .bldSw p b))
    (h : exec i s = .next t) :
    ∃ cmd param data, data.length ≤ 2 ∧ t = buildFrame cmd param data s := by
  obtain ⟨p, rfl⟩ | ⟨p, v, rfl⟩ | ⟨p, b, rfl⟩ := builder
  · exact ⟨_, p, [], by simp, (Host.Outcome.next.inj h).symm⟩
  · simp only [exec, execBldSv] at h
    split at h
    · exact ⟨_, p, valueData v, by simp [valueData], (Host.Outcome.next.inj h).symm⟩
    · cases h
  · exact ⟨_, p, switchData b, by simp [switchData], (Host.Outcome.next.inj h).symm⟩

/-- The bytes rule R99 names in the eight that stand before DATA (rule R52 to rule R56). -/
theorem header_getElem? {f rest : List Byte} {cmd cmd2 cmd3 lo hi : Byte}
    (h : f = [0x02, 0x01, 0x00, cmd, cmd2, cmd3, lo, hi] ++ rest) :
    f[0]? = some 0x02 ∧ f[1]? = some 0x01 ∧ f[2]? = some 0x00 ∧ f[4]? = some cmd2 ∧
      f[6]? = some lo ∧ f[7]? = some hi := by
  subst h
  exact ⟨rfl, rfl, rfl, rfl, rfl, rfl⟩

/-- Settles O24: `RES` holds the hex string of an assembled frame (`buildFrame_eq`); `frameLayout`
gives its fixed bytes and LEN, the lemmas on `frameBytes` its CRC byte and both ends. -/
theorem builtFrameInvariants : Obligations.BuiltFrameInvariants := by
  intro i s t builder h
  obtain ⟨cmd, param, data, hdata, rfl⟩ := exec_builder_eq builder h
  obtain ⟨lo, hi, hsum, layout⟩ := frameLayout s.params.table cmd 0x00 param data (by omega)
  obtain ⟨stxByte, addrByte, subByte, cmd2Byte, lenLo, lenHi⟩ :=
    header_getElem? (layout.trans (List.append_assoc ..))
  refine ⟨frameBytes s.params.table cmd 0x00 param data, data.length, lo, hi,
    crc s.params.table (frameBody cmd 0x00 param data), ?res, frameBytes_length ..,
    stxByte, frameBytes_getLast? .., addrByte, subByte, cmd2Byte, lenLo, lenHi, hsum,
    frameBytes_getElem?_crc .., ?crcByte, ?hexLength, hexStr_mem _⟩
  case res => rw [buildFrame_eq]
  case crcByte => rw [frameBytes_covered]
  case hexLength => rw [hexStr_length, frameBytes_length]; omega

end Sys2Proof.Machine
end

section
/-!
PROOFS. The status demultiplexer: the two ends of `DEC.ST` (rule R120, rule R160), the record of
a reply given by its elements (rule R37), and the fields of it that are raw bytes, little-endian
numbers or flags.
-/

namespace Sys2Proof.Machine

open Sys2Proof

theorem exec_decSt (values : List Byte) (s : State) :
    exec (.decSt values) s = execDecSt values s := rfl

/-- Settles O31: by `execDecSt_short` and `execDecSt_long`; of the state under the record,
`takeDraw` has moved the count of draws alone. -/
theorem statusDecodeOutcomes : Obligations.StatusDecodeOutcomes := by
  intro values s
  rw [exec_decSt]
  refine ⟨fun short => ?_, fun long => ?_⟩
  · exact execDecSt_short values s (by omega)
  · exact ⟨_, (takeDraw (payloadOf values long) s).2.draws, execDecSt_long values s long⟩

section
variable {values : List Byte} {v : Nat → Byte}

/-- A reply with elements 0..85 is long enough (rule R120). -/
theorem le_length_of_elements (hv : ∀ k, k < 86 → values[k]? = some (v k)) :
    86 ≤ values.length :=
  (List.getElem?_eq_some_iff.mp (hv 85 (by decide))).1

theorem payloadOf_getElem_of_elements (hv : ∀ k, k < 86 → values[k]? = some (v k))
    (long : 86 ≤ values.length) (k : Nat) (hk : k < 86) : (payloadOf values long)[k] = v k := by
  obtain ⟨_, element⟩ := List.getElem?_eq_some_iff.mp (hv k hk)
  rw [payloadOf_getElem, element]

/-- What holds of the record of every payload with the elements `v`, whichever way its draw
falls, holds of the record `DEC.ST` leaves for a reply with these elements. -/
theorem exec_decSt_of_elements (hv : ∀ k, k < 86 → values[k]? = some (v k)) (s : State)
    {P : StatusRecord → Prop}
    (hP : ∀ (p : Payload) (up : Bool), (∀ k (hk : k < 86), p[k] = v k) → P (recordOf p up)) :
    ∃ r d, exec (.decSt values) s =
      .next { s with st := .ok, res := some (.record r), draws := d } ∧ P r :=
  have long := le_length_of_elements hv
  ⟨_, (takeDraw (payloadOf values long) s).2.draws, execDecSt_long values s long,
    hP _ _ (payloadOf_getElem_of_elements hv long)⟩

end

/-- Settles O32: each of these fields is by definition the payload's element at its offset. -/
theorem statusRawFields : Obligations.StatusRawFields := by
  intro values v s hv
  refine exec_decSt_of_elements hv s fun p up hp => ⟨fun i => ?health, ?others⟩
  case health =>
    rw [recordOf, Vector.getElem_ofFn]
    exact hp (8 + i.val) (by omega)
  case others =>
    exact ⟨hp 33 (by decide), hp 35 (by decide), hp 36 (by decide), hp 37 (by decide),
      hp 38 (by decide), hp 39 (by decide), hp 42 (by decide), hp 43 (by decide),
      hp 52 (by decide), hp 53 (by decide), hp 54 (by decide), hp 59 (by decide),
      hp 60 (by decide), hp 61 (by decide), hp 75 (by decide), hp 76 (by decide),
      hp 82 (by decide)⟩

/-! The one-bit tests as arithmetic (rule R126, rule R127). -/

theorem nonzero16_iff (w : BitVec 16) : nonzero16 w = true ↔ w.toNat ≠ 0 := by
  simp [nonzero16, ← BitVec.toNat_inj]

theorem nonzero_iff (b : Byte) : nonzero b = true ↔ b.toNat ≠ 0 := by
  simp [nonzero, ← BitVec.toNat_inj]

theorem isone_iff (b : Byte) : isone b = true ↔ b.toNat = 1 := by
  simp [isone, ← BitVec.toNat_inj]

theorem bit_iff (b : Byte) (i : Nat) (hi : i < 8) : bit b i = true ↔ b.toNat / 2 ^ i % 2 = 1 := by
  rw [bit_eq_getLsbD b i hi, BitVec.getLsbD, Nat.testBit_eq_decide_div_mod_eq, decide_eq_true_iff]

/-- Settles O33: each field is one of the little-endian forms over its elements, whose values
are `u16le_toNat`, `u32le_toNat` and `u24split_toNat`; `alarm_active` is `nonzero16` of the
field `alarms_raw`. -/
theorem statusCounters : Obligations.StatusCounters := by
  intro values v s hv
  refine exec_decSt_of_elements hv s fun p up hp => ⟨?alarms, ?active, ?alarms2, ?runtime, ?fuel⟩
  case alarms =>
    rw [← hp 40 (by decide), ← hp 41 (by decide)]
    exact u16le_toNat p[40] p[41]
  case active => exact nonzero16_iff (u16le p[40] p[41])
  case alarms2 =>
    rw [← hp 62 (by decide), ← hp 63 (by decide)]
    exact u16le_toNat p[62] p[63]
  case runtime =>
    rw [← hp 64 (by decide), ← hp 65 (by decide), ← hp 66 (by decide), ← hp 67 (by decide)]
    exact u32le_toNat p[64] p[65] p[66] p[67]
  case fuel =>
    rw [← hp 73 (by decide), ← hp 74 (by decide), ← hp 77 (by decide)]
    exact u24split_toNat p[73] p[74] p[77]

/-- Settles O35: the flags are the tests of rule R126 and rule R127 on their elements, read as
arithmetic by `bit_iff`, `isone_iff` and `nonzero_iff`. -/
theorem statusFlags : Obligations.StatusFlags := by
  intro values v s hv
  refine exec_decSt_of_elements hv s fun p up hp => ⟨fun i => ?output, ?auto, ?summer⟩
  case output =>
    rw [recordOf, Vector.getElem_ofFn, hp 32 (by decide)]
    exact bit_iff (v 32) i.val i.isLt
  case auto =>
    rw [← hp 34 (by decide)]
    exact isone_iff p[34]
  case summer =>
    rw [← hp 83 (by decide)]
    exact nonzero_iff p[83]

end Sys2Proof.Machine
end

section
/-!
PROOFS. Failures (rule R200, rule R201): an operation that ends with a failure code has done
nothing but `raise` it.
-/

namespace Sys2Proof.Machine

open Sys2Proof

/-- The two endings with a result leave `OK` in `ST`, so a failure code comes from `raise`
alone, applied to the state the operation began in. -/
theorem Ending.eq_raise_of_failed {s t : State} {f : Failure} (h : Ending s t)
    (hf : t.st = .failed f) : t = raise f s := by
  cases h with
  | computed r acc ht =>
    have hok : t.st = .ok := by rw [ht, complete_st]
    cases hok.symm.trans hf
  | decoded v up draws ht =>
    have hok : t.st = .ok := by rw [ht, complete_st]
    cases hok.symm.trans hf
  | failed g ht =>
    have hg : t.st = .failed g := by rw [ht, raise_st]
    cases hg.symm.trans hf
    exact ht

/-- Settles O50: every next state of an operation is one of the endings (`exec_ending`), and
the only one with a failure code is `raise` of that code, which is the update stated. -/
theorem failuresAreClean : Obligations.FailuresAreClean := by
  intro i s t f hexec hf
  exact (exec_ending hexec).eq_raise_of_failed hf

end Sys2Proof.Machine
end

section
/-!
PROOFS. The decoder against the encoder (rule R50, rule R51, rule R52, rule R69): each undoes
the other, and the patterns of the five frame rows exclude one another.
-/

namespace Sys2Proof

/-! ## What a matched pattern says of the bytes (rule R69) -/

/-- The whole byte is compared where a mask byte is 0xFF. -/
theorem and_fullMask (b : Byte) : b &&& 255#8 = b := by
  simpa using BitVec.and_allOnes (x := b)

/-- `CMD` and `LEN_LO` tell the five rows apart. -/
theorem frameKind_eq_of_cmd_len (k k' : FrameKind)
    (cmd : (frameMatch k).extractLsb' 32 8 = (frameMatch k').extractLsb' 32 8)
    (len : (frameMatch k).extractLsb' 8 8 = (frameMatch k').extractLsb' 8 8) : k = k' := by
  revert cmd len
  cases k <;> cases k' <;> decide

/-- Every row's mask compares `CMD` and `LEN_LO` in full. -/
theorem frameMask_cmd_len (k : FrameKind) :
    (frameMask k).extractLsb' 32 8 = 255#8 ∧ (frameMask k).extractLsb' 8 8 = 255#8 := by
  cases k <;> decide

theorem cmd_len_of_frameIsKind {w : BitVec 64} {k : FrameKind} (h : frameIsKind w k = true) :
    w.extractLsb' 32 8 = (frameMatch k).extractLsb' 32 8 ∧
    w.extractLsb' 8 8 = (frameMatch k).extractLsb' 8 8 := by
  have masked : w &&& frameMask k = frameMatch k := by simpa [frameIsKind] using h
  have cmd := byte_of_masked masked 32
  have len := byte_of_masked masked 8
  obtain ⟨maskCmd, maskLen⟩ := frameMask_cmd_len k
  rw [maskCmd, and_fullMask] at cmd
  rw [maskLen, and_fullMask] at len
  exact ⟨cmd, len⟩

/-- Settles O12: a number matched by two rows carries the `CMD` and the `LEN_LO` of both, and
no two rows share these. -/
theorem framePatternsDisjoint : Obligations.FramePatternsDisjoint := by
  intro first8 k k' h h'
  obtain ⟨cmd, len⟩ := cmd_len_of_frameIsKind h
  obtain ⟨cmd', len'⟩ := cmd_len_of_frameIsKind h'
  exact frameKind_eq_of_cmd_len k k' (cmd.symm.trans cmd') (len.symm.trans len')

/-- `CMD` of a frame of a given row (rule R54). -/
def kindCmd (k : FrameKind) : Byte :=
  match k with
  | .read => 0x01
  | .setParam => 0x02
  | .setSwitch => 0x05
  | .statusQuery => 0x06
  | .settingsQuery => 0x05

/-- `LEN_LO` of a frame of a given row (rule R54). -/
def kindLen (k : FrameKind) : Byte :=
  match k with
  | .read => 0x00
  | .setParam => 0x02
  | .setSwitch => 0x01
  | .statusQuery => 0x00
  | .settingsQuery => 0x00

/-- What a row's pattern says of byte 5: nothing in the rows of the builders, the printed byte
in the two queries. -/
def kindParam (k : FrameKind) (param : Byte) : Prop :=
  match k with
  | .read => True
  | .setParam => True
  | .setSwitch => True
  | .statusQuery => param = 0x00
  | .settingsQuery => param = 0x16

/-- The first eight bytes of a classified frame are the head the encoder writes for its row. -/
theorem head_of_classifyFrame {b0 b1 b2 b3 b4 b5 b6 b7 : Byte} {k : FrameKind}
    (h : classifyFrame (packFirst8 b0 b1 b2 b3 b4 b5 b6 b7) = some k) :
    [b0, b1, b2, b3, b4, b5, b6, b7] = frameHead (kindCmd k) b5 (kindLen k) ∧ kindParam k b5 := by
  have byteAt := byte_of_masked (classifyFrame_some h)
  obtain ⟨p0, p1, p2, p3, p4, p5, p6, p7⟩ := packFirst8_byte b0 b1 b2 b3 b4 b5 b6 b7
  have e0 := p0 ▸ byteAt 56
  have e1 := p1 ▸ byteAt 48
  have e2 := p2 ▸ byteAt 40
  have e3 := p3 ▸ byteAt 32
  have e4 := p4 ▸ byteAt 24
  have e5 := p5 ▸ byteAt 16
  have e6 := p6 ▸ byteAt 8
  have e7 := p7 ▸ byteAt 0
  cases k <;>
    simp [frameMask, frameMatch, and_fullMask] at e0 e1 e2 e3 e4 e5 e6 e7 <;>
    simp [frameHead, kindCmd, kindLen, kindParam, *]

/-! ## Decoding what was encoded -/

/-- Settles O10: an operation's select code and operand types pick its own row; a frame's head
is classified as its row (rule R69), and the bytes behind it are the row's tail. Only the `i32`
operand needs the well-formedness. -/
theorem decodeAfterEncode : Obligations.DecodeAfterEncode := by
  intro i wf
  cases i with
  | bldSv param value =>
    have inRange : isI32 value = true := wf
    simp [encode, decode, decodeOp, inRange]
  | frameRead | frameSetParam | frameSetSwitch | frameStatusQuery | frameSettingsQuery =>
    simp [encode, decode, frameHead, decodeFrame, decodeFrameTail]
  | _ => rfl

/-- Settles O9: each of these requests is the encoding of a well-formed instruction, so
`decodeAfterEncode` decodes it. -/
theorem selectCodesDecode : Obligations.SelectCodesDecode := by
  have back (i : Instr) (wf : i.wellFormed = true) : decode (encode i) = .ok i :=
    decodeAfterEncode i wf
  refine ⟨fun l => back (.crc l) rfl, fun p => back (.bldRd p) rfl,
    fun p v low high => back (.bldSv p v) ?range, fun p b => back (.bldSw p b) rfl,
    back .litStatus rfl, back .litSettings rfl, back .litAutoOn rfl, back .litAutoOff rfl,
    fun l => back (.decSt l) rfl, fun l => back (.prgDec l) rfl, fun l => back (.prgEnc l) rfl,
    back (.frameStatusQuery 0x61 0x03) rfl, back (.frameSettingsQuery 0x24 0x03) rfl⟩
  simp [Instr.wellFormed, isI32, low, high]

/-! ## Encoding what was decoded -/

/-- The select code and the operands of a transaction are those of the row found. -/
theorem encode_of_decodeOp {opsel : Byte} {operands : List Operand} {i : Instr}
    (h : decodeOp opsel operands = .ok i) : encode i = .op opsel operands := by
  have code {n : Nat} (hn : opsel.toNat = n) : BitVec.ofNat 8 n = opsel := by simp [← hn]
  unfold decodeOp at h
  split at h
  case h_12 => split at h <;> cases h
  case h_3 hn =>
    split at h
    · cases h
      rw [← code hn]
      rfl
    · cases h
  all_goals
    next hn =>
    cases h
    rw [← code hn]
    rfl

/-- The bytes behind byte 7 are those the encoder writes for the row found. -/
theorem encode_of_decodeFrameTail {k : FrameKind} {param : Byte} {tail : List Byte} {i : Instr}
    (hparam : kindParam k param) (h : decodeFrameTail k param tail = .ok i) :
    encode i = .frame (frameHead (kindCmd k) param (kindLen k) ++ tail) := by
  unfold decodeFrameTail at h
  split at h
  case h_6 => cases h
  case h_4 => cases h; cases hparam; rfl
  case h_5 => cases h; cases hparam; rfl
  all_goals
    cases h
    rfl

theorem encode_of_decodeFrame {bytes : List Byte} {i : Instr} (h : decodeFrame bytes = .ok i) :
    encode i = .frame bytes := by
  unfold decodeFrame at h
  split at h
  case h_2 => cases h
  case h_1 b0 b1 b2 b3 b4 b5 b6 b7 tail =>
    split at h
    case h_2 => cases h
    case h_1 k hk =>
      obtain ⟨head, hparam⟩ := head_of_classifyFrame hk
      rw [encode_of_decodeFrameTail hparam h, ← head]
      rfl

/-- Settles O11: a transaction by its select code, a frame by its classified head and its tail. -/
theorem encodeAfterDecode : Obligations.EncodeAfterDecode := by
  intro r i h
  cases r with
  | op opsel operands => exact encode_of_decodeOp h
  | frame bytes => exact encode_of_decodeFrame h

end Sys2Proof
end

section
/-!
PROOFS. The weekly-program converter (rule R170 to rule R174): what each direction leaves, slot
by slot and bit by bit, and that the two undo each other.
-/

namespace Sys2Proof.Machine

open Sys2Proof

/-! ## Decoding (rule R171) -/

theorem exec_prgDec (bytes42 : List Byte) (s : State) :
    exec (.prgDec bytes42) s = execPrgDec bytes42 s := rfl

theorem daysOf_getElem?_day (b : Bitmap) (d : Nat) (hd : d < 7) :
    (daysOf b)[d]? = some ((List.finRange 48).map (slotChar b ⟨d, hd⟩)) := by
  simp [daysOf, hd]

theorem slotByte_lt {d n : Nat} (hd : d < 7) (hn : n < 48) : slotByte d n < 42 := by
  unfold slotByte
  omega

theorem slotBit_lt (n : Nat) : slotBit n < 8 := Nat.mod_lt n (by decide)

theorem slotChar_eq (b : Bitmap) {d n : Nat} (hd : d < 7) (hn : n < 48) :
    slotChar b ⟨d, hd⟩ ⟨n, hn⟩ =
      if bit (b[slotByte d n]'(slotByte_lt hd hn)) (slotBit n) then '1' else '0' := rfl

/-- The one-bit test as arithmetic (rule R126, rule R170). -/
theorem bit_slotBit_iff (b : Byte) (n : Nat) :
    bit b (slotBit n) = true ↔ b.toNat / 2 ^ (n % 8) % 2 = 1 :=
  bit_iff b (slotBit n) (slotBit_lt n)

/-- Settles O42: a wrong length is `execPrgDec_wrong`; else day-string `d` is the row of the
slots' characters, each the test of its bit in the byte rule R170 gives it. -/
theorem programDecode : Obligations.ProgramDecode := by
  intro bytes42 s
  rw [exec_prgDec]
  refine ⟨execPrgDec_wrong bytes42 s, fun right => ⟨daysOf (bitmapOf bytes42 right),
    execPrgDec_right bytes42 s right, daysOf_length _, daysOf_mem_length _,
    fun d n b hd hn hb => ⟨_, daysOf_getElem?_day _ d hd, ?_⟩⟩⟩
  obtain ⟨_, element⟩ := List.getElem?_eq_some_iff.mp hb
  have slot : (bitmapOf bytes42 right)[slotByte d n]'(slotByte_lt hd hn) = b :=
    (bitmapOf_getElem bytes42 right _ (slotByte_lt hd hn)).trans element
  simp [hn, slotChar_eq, slot, bit_slotBit_iff]

/-! ## Encoding (rule R172) -/

theorem exec_prgEnc (days : List Str) (s : State) :
    exec (.prgEnc days) s = execPrgEnc days s := rfl

theorem weekShaped_iff (days : List Str) :
    weekShaped days = true ↔ days.length = 7 ∧ ∀ day ∈ days, day.length = 48 := by
  simp [weekShaped]

theorem weekChars_iff (days : List Str) :
    weekChars days = true ↔ ∀ day ∈ days, ∀ c ∈ day, c = '0' ∨ c = '1' := by
  simp [weekChars]

/-- The three ends of `PRG.ENC` (rule R172). -/
theorem execPrgEnc_right {days : List Str} (s : State) (shape : weekShaped days = true)
    (chars : weekChars days = true) :
    execPrgEnc days s = .next (complete (.bytes (bytesOf days)) s) := by
  simp [execPrgEnc, shape, chars]

theorem execPrgEnc_badChar {days : List Str} (s : State) (shape : weekShaped days = true)
    (chars : ¬ weekChars days = true) : execPrgEnc days s = .next (raise .badChar s) := by
  simp [execPrgEnc, shape, chars]

theorem execPrgEnc_badLength {days : List Str} (s : State) (shape : ¬ weekShaped days = true) :
    execPrgEnc days s = .next (raise .badLength s) := by
  simp [execPrgEnc, shape]

/-- Settles O44: the shape test comes first and fails alone in the first clause; in the second
it passes and the test of the characters fails. -/
theorem programEncodeFailures : Obligations.ProgramEncodeFailures := by
  intro days s
  rw [exec_prgEnc]
  constructor
  · intro wrong
    refine execPrgEnc_badLength s fun shape => ?_
    obtain ⟨seven, fortyEight⟩ := (weekShaped_iff days).mp shape
    obtain number | ⟨day, mem, len⟩ := wrong
    · exact number seven
    · exact len (fortyEight day mem)
  · rintro seven fortyEight ⟨day, mem, c, hc, notZero, notOne⟩
    refine execPrgEnc_badChar s ((weekShaped_iff days).mpr ⟨seven, fortyEight⟩) fun chars => ?_
    exact ((weekChars_iff days).mp chars day mem c hc).elim notZero notOne

/-- The bit rule R170 gives slot `n` of day `d`, in the packed bytes, is the slot. -/
theorem bit_packedByte_slot (days : List Str) (d n : Nat) (hn : n < 48) :
    bit (packedByte days (slotByte d n)) (slotBit n) = slotSet days d n := by
  have day : slotByte d n / 6 = d := by unfold slotByte; omega
  have slot : 8 * (slotByte d n % 6) + slotBit n = n := by unfold slotByte slotBit; omega
  rw [bit_eq_getLsbD _ _ (slotBit_lt n), packedByte_getLsbD _ _ _ (slotBit_lt n), day, slot]

theorem slotSet_iff {days : List Str} {d : Nat} {day : Str} (h : days[d]? = some day) (n : Nat) :
    slotSet days d n = true ↔ day[n]? = some '1' := by
  simp [slotSet, h]

/-- Settles O43: a valid set passes both tests, and the packed bytes hold each slot at its bit
(`bit_packedByte_slot`). -/
theorem programEncode : Obligations.ProgramEncode := by
  intro days s seven fortyEight chars
  refine ⟨bytesOf days,
    execPrgEnc_right s ((weekShaped_iff days).mpr ⟨seven, fortyEight⟩)
      ((weekChars_iff days).mpr chars),
    bytesOf_length days, fun d n day hd hn hday =>
      ⟨_, bytesOf_getElem? days _ (slotByte_lt hd hn), ?_⟩⟩
  rw [← bit_slotBit_iff, ← slotSet_iff hday]
  exact Bool.eq_iff_iff.mp (bit_packedByte_slot days d n hn)

/-! ## The two directions together (rule R173) -/

/-- The character of a slot that is `'0'` or `'1'` is told by whether it is `'1'`. -/
theorem slotSet_char {days : List Str} {d n : Nat} {day : Str} {c : Char}
    (hday : days[d]? = some day) (hc : day[n]? = some c) (char : c = '0' ∨ c = '1') :
    (if slotSet days d n then '1' else '0') = c := by
  have set : slotSet days d n = true ↔ c = '1' := by
    rw [slotSet_iff hday, hc, Option.some.injEq]
  obtain rfl | rfl := char
  · rw [if_neg (by rw [set]; decide)]
  · rw [if_pos (set.mpr rfl)]

/-- The slots of the packed bytes are the slots packed. -/
theorem slotChar_bytesOf (days : List Str) {d n : Nat} (hd : d < 7) (hn : n < 48) :
    slotChar (bitmapOf (bytesOf days) (bytesOf_length days)) ⟨d, hd⟩ ⟨n, hn⟩ =
      if slotSet days d n then '1' else '0' := by
  have byte := bytesOf_getElem? days _ (slotByte_lt hd hn)
  rw [slotChar_eq, bitmapOf_getElem, (List.getElem?_eq_some_iff.mp byte).2,
    bit_packedByte_slot days d n hn]

/-- Unpacking the packed bytes of a valid day-string set gives the set. -/
theorem daysOf_bitmapOf_bytesOf {days : List Str} (seven : days.length = 7)
    (fortyEight : ∀ day ∈ days, day.length = 48)
    (chars : ∀ day ∈ days, ∀ c ∈ day, c = '0' ∨ c = '1') :
    daysOf (bitmapOf (bytesOf days) (bytesOf_length days)) = days := by
  refine List.ext_getElem (by rw [daysOf_length, seven]) fun d _ hd' => ?_
  have hd : d < 7 := seven ▸ hd'
  have mem : days[d] ∈ days := List.getElem_mem hd'
  have day := daysOf_getElem?_day (bitmapOf (bytesOf days) (bytesOf_length days)) d hd
  rw [(List.getElem?_eq_some_iff.mp day).2]
  refine List.ext_getElem (by simp [fortyEight _ mem]) fun n hn' hn'' => ?_
  have hn : n < 48 := fortyEight _ mem ▸ hn''
  rw [List.getElem_map, List.getElem_finRange]
  exact (slotChar_bytesOf days hd hn).trans
    (slotSet_char (List.getElem?_eq_getElem hd') (List.getElem?_eq_getElem hn'')
      (chars _ mem _ (List.getElem_mem hn'')))

/-- Slot `n` of day `d` of a decoded bitmap is set when its bit is. -/
theorem slotSet_daysOf (b : Bitmap) {d n : Nat} (hd : d < 7) (hn : n < 48) :
    slotSet (daysOf b) d n = bit (b[slotByte d n]'(slotByte_lt hd hn)) (slotBit n) := by
  rw [Bool.eq_iff_iff, slotSet_iff (daysOf_getElem?_day b d hd)]
  simp [hn, slotChar_eq]

/-- Packing the day-strings of a bitmap gives its bytes. -/
theorem bytesOf_daysOf_bitmapOf {bytes42 : List Byte} (right : bytes42.length = 42) :
    bytesOf (daysOf (bitmapOf bytes42 right)) = bytes42 := by
  refine List.ext_getElem (by rw [bytesOf_length, right]) fun k hk' hk'' => ?_
  have hk : k < 42 := right ▸ hk''
  have byte := bytesOf_getElem? (daysOf (bitmapOf bytes42 right)) k hk
  rw [(List.getElem?_eq_some_iff.mp byte).2]
  refine BitVec.eq_of_getLsbD_eq fun n hn => ?_
  have hd : k / 6 < 7 := by omega
  have hs : 8 * (k % 6) + n < 48 := by omega
  have hbyte : slotByte (k / 6) (8 * (k % 6) + n) = k := by unfold slotByte; omega
  have hbit : slotBit (8 * (k % 6) + n) = n := by unfold slotBit; omega
  rw [packedByte_getLsbD _ _ _ hn, slotSet_daysOf _ hd hs, bitmapOf_getElem,
    bit_eq_getLsbD _ _ (slotBit_lt _)]
  simp only [hbyte, hbit]

/-- Settles O45: the two operations complete, and `daysOf_bitmapOf_bytesOf` is what the second
leaves. -/
theorem programRoundTripDays : Obligations.ProgramRoundTripDays := by
  intro days s u seven fortyEight chars
  refine ⟨bytesOf days,
    execPrgEnc_right s ((weekShaped_iff days).mpr ⟨seven, fortyEight⟩)
      ((weekChars_iff days).mpr chars), ?_⟩
  rw [exec_prgDec, execPrgDec_right _ u (bytesOf_length days),
    daysOf_bitmapOf_bytesOf seven fortyEight chars]
  rfl

/-- The day-strings of every bitmap are a valid set (rule R11, rule R173). -/
theorem weekShaped_daysOf (b : Bitmap) : weekShaped (daysOf b) = true :=
  (weekShaped_iff _).mpr ⟨daysOf_length b, daysOf_mem_length b⟩

theorem weekChars_daysOf (b : Bitmap) : weekChars (daysOf b) = true := by
  refine (weekChars_iff _).mpr fun day hday c hc => ?_
  obtain ⟨d, -, rfl⟩ := List.mem_map.mp hday
  obtain ⟨n, -, rfl⟩ := List.mem_map.mp hc
  exact slotChar_mem b d n

/-- Settles O46: the day-strings decoded pass both tests of `PRG.ENC`, and
`bytesOf_daysOf_bitmapOf` is what it leaves. -/
theorem programRoundTripBytes : Obligations.ProgramRoundTripBytes := by
  intro bytes42 s u right
  refine ⟨daysOf (bitmapOf bytes42 right), execPrgDec_right bytes42 s right, ?_⟩
  rw [exec_prgEnc, execPrgEnc_right u (weekShaped_daysOf _) (weekChars_daysOf _),
    bytesOf_daysOf_bitmapOf right]
  rfl

/-! ## Locality (rule R174) -/

/-- The day-strings a decoding leaves are those of the bitmap. -/
theorem eq_daysOf_of_exec {p : List Byte} {s t : State} {ds : List Str}
    (h : exec (.prgDec p) s = .next t) (hres : t.res = some (.days ds)) :
    ∃ right : p.length = 42, ds = daysOf (bitmapOf p right) := by
  rw [exec_prgDec] at h
  by_cases right : p.length = 42
  · rw [execPrgDec_right p s right] at h
    cases h
    cases hres
    exact ⟨right, rfl⟩
  · rw [execPrgDec_wrong p s right] at h
    cases h
    cases hres

/-- The bytes an encoding leaves are the packed bytes. -/
theorem eq_bytesOf_of_exec {ds : List Str} {s t : State} {p : List Byte}
    (h : exec (.prgEnc ds) s = .next t) (hres : t.res = some (.bytes p)) : p = bytesOf ds := by
  rw [exec_prgEnc] at h
  by_cases shape : weekShaped ds = true
  · by_cases chars : weekChars ds = true
    · rw [execPrgEnc_right s shape chars] at h
      cases h
      cases hres
      rfl
    · rw [execPrgEnc_badChar s shape chars] at h
      cases h
      cases hres
  · rw [execPrgEnc_badLength s shape] at h
    cases h
    cases hres

theorem slotChar_congr {p q : List Byte} (hp : p.length = 42) (hq : q.length = 42) {d : Nat}
    (hd : d < 7) (same : ∀ k, 6 * d ≤ k → k ≤ 6 * d + 5 → p[k]? = q[k]?) :
    slotChar (bitmapOf p hp) ⟨d, hd⟩ = slotChar (bitmapOf q hq) ⟨d, hd⟩ := by
  funext n
  have byte : p[slotByte d n]? = q[slotByte d n]? :=
    same _ (by unfold slotByte; omega) (by unfold slotByte; omega)
  have hk := slotByte_lt hd n.isLt
  rw [slotChar_eq _ hd n.isLt, slotChar_eq _ hd n.isLt, bitmapOf_getElem, bitmapOf_getElem]
  rw [List.getElem?_eq_getElem (by omega), List.getElem?_eq_getElem (by omega),
    Option.some.injEq] at byte
  rw [byte]

/-- A packed byte is made of the slots of one day. -/
theorem packedByte_congr {ds ds' : List Str} {k : Nat} (same : ds[k / 6]? = ds'[k / 6]?) :
    packedByte ds k = packedByte ds' k := by
  refine BitVec.eq_of_getLsbD_eq fun n hn => ?_
  rw [packedByte_getLsbD _ _ _ hn, packedByte_getLsbD _ _ _ hn, slotSet, slotSet, same]

/-- Settles O47: a day-string is made of the characters of its slots, each of which reads one of
the six bytes (`slotChar_congr`); a byte is packed from one day-string (`packedByte_congr`). -/
theorem programLocality : Obligations.ProgramLocality := by
  constructor
  · intro p q s t t' ds ds' d hd h hres h' hres' same
    obtain ⟨hp, rfl⟩ := eq_daysOf_of_exec h hres
    obtain ⟨hq, rfl⟩ := eq_daysOf_of_exec h' hres'
    rw [daysOf_getElem?_day _ d hd, daysOf_getElem?_day _ d hd, slotChar_congr hp hq hd same]
  · intro ds ds' s t t' p q d hd h hres h' hres' same k low high
    obtain rfl := eq_bytesOf_of_exec h hres
    obtain rfl := eq_bytesOf_of_exec h' hres'
    have day : ds[k / 6]? = ds'[k / 6]? := by rw [show k / 6 = d by omega, same]
    rw [bytesOf_getElem? _ k (by omega), bytesOf_getElem? _ k (by omega), packedByte_congr day]

end Sys2Proof.Machine
end

section
/-!
PROOFS. The laws of the CRC (rule R83), under any table and under the default one, and the
content of the default table (rule R84).
-/

namespace Sys2Proof.Machine

open Sys2Proof

theorem crc_append (table : Vector Byte 256) (xs ys : List Byte) :
    crc table (xs ++ ys) = ys.foldl (crcStep table) (crc table xs) := by
  rw [crc, List.foldl_append, crc]

/-- A step from `acc` is a step from 0 over the byte with `acc` xor-ed in. -/
theorem crcStep_zero_xor (table : Vector Byte 256) (acc b : Byte) :
    crcStep table 0 (acc ^^^ b) = crcStep table acc b := by
  simp [crcStep]

/-- Settles O14: all but the last law are laws of the left fold; the last folds the accumulator
into the next byte (`crcStep_zero_xor`). -/
theorem crcLawsAnyTable : Obligations.CrcLawsAnyTable := by
  refine fun table => ⟨crc_nil table, crc_append_singleton table, crc_append table,
    fun xs b ys => ?_⟩
  rw [crc_append, List.foldl_cons, ← crcStep_zero_xor]
  rfl

theorem crcStep_defaultTable_self (c : Byte) : crcStep defaultTable c c = 0 := by
  simp [crcStep, defaultTable_zero]

theorem crc_replicate_zero (n : Nat) : crc defaultTable (List.replicate n 0) = 0 := by
  induction n with
  | zero => rfl
  | succ n ih =>
    rw [List.replicate_succ', crc_append_singleton, ih, crcStep_defaultTable_self]

/-- Settles O15: zeros leave the accumulator at 0, and the CRC xor-ed with itself looks up
entry 0, which is 0. -/
theorem crcLawsDefaultTable : Obligations.CrcLawsDefaultTable := by
  intro xs s htable
  simp only [exec_crc, execCrc_eq, htable]
  refine ⟨fun n => ⟨_, rfl, ?_⟩, _, _, rfl, rfl, ?_⟩
  · rw [crc_append, crc_replicate_zero, ← crc]
  · rw [crc_append_singleton, crcStep_defaultTable_self]

/-- Settles O16: all entries are compared with what the polynomial generates, and both sequences
of the source are run. -/
theorem defaultTableContent : Obligations.DefaultTableContent := by
  refine ⟨?entries, ?status, ?settings⟩
  case entries => decide +kernel
  case status => decide +kernel
  case settings => decide +kernel

end Sys2Proof.Machine
end

section
/-!
PROOFS. The builders and the literals (rule R92 to rule R98): the frame each leaves, byte by
byte, and the row it is of (rule R69).
-/

namespace Sys2Proof.Machine

open Sys2Proof

/-! ## The next state of each builder -/

/-! LEN of the three builders' data (rule R56). -/

theorem lenBytes_none : lenBytes [] = [0x00, 0x00] := rfl

theorem lenBytes_one (b : Byte) : lenBytes [b] = [0x01, 0x00] := by simp [lenBytes]

theorem lenBytes_two (lo hi : Byte) : lenBytes [lo, hi] = [0x02, 0x00] := by simp [lenBytes]

theorem frameBody_eq {data : List Byte} {lo hi : Byte} (len : lenBytes data = [lo, hi])
    (cmd cmd2 cmd3 : Byte) :
    frameBody cmd cmd2 cmd3 data = [0x01, 0x00, cmd, cmd2, cmd3, lo, hi] ++ data := by
  rw [frameBody, len]
  rfl

/-- What the shared assembly leaves, with its two LEN bytes named. -/
theorem next_buildFrame {data : List Byte} {lo hi : Byte} (len : lenBytes data = [lo, hi])
    (cmd param : Byte) (s : State) :
    let body : List Byte := [0x01, 0x00, cmd, 0x00, param, lo, hi] ++ data
    let c := crc s.params.table body
    (.next (buildFrame cmd param data s) : Host.Outcome State Fault Refusal) =
      .next { s with
        st := .ok, acc := c, res := some (.hex (hexStr ([0x02] ++ body ++ [c, 0x03]))) } := by
  rw [buildFrame_eq, frameBytes, frameBody_eq len]
  rfl

/-- Settles O19: the shared assembly with no data bytes. -/
theorem buildRead : Obligations.BuildRead :=
  fun p s => next_buildFrame lenBytes_none 0x01 p s

/-- Settles O23: the shared assembly with the switch byte as its data. -/
theorem buildSetSwitch : Obligations.BuildSetSwitch :=
  fun p _ s => next_buildFrame (lenBytes_one _) 0x05 p s

theorem exec_bldSv_admitted (p : Byte) {v : Int} (s : State) (low : -32768 ≤ v)
    (high : v ≤ 65535) :
    exec (.bldSv p v) s = .next (buildFrame 0x02 p (valueData v) s) :=
  if_pos ((valueAdmitted_iff v).mpr ⟨low, high⟩)

/-- Settles O21: the test of the range fails, and nothing is built. -/
theorem setValueOutOfRangeRefused : Obligations.SetValueOutOfRangeRefused := by
  intro p v s out
  exact if_neg (by rw [valueAdmitted_iff]; omega)

/-- The two data bytes of a value give it back modulo 65536 (rule R57). -/
theorem valueData_spec (v : Int) :
    ∃ lo hi : Byte, valueData v = [lo, hi] ∧ (lo.toNat : Int) + 256 * hi.toNat = v % 65536 := by
  refine ⟨_, _, rfl, ?_⟩
  have bytes := lowHigh_toNat (foldValue v) (foldValue_lt v)
  have fold := foldValue_cast v
  omega

/-- Settles O20: the shared assembly with the value's two bytes as its data. -/
theorem buildSetValue : Obligations.BuildSetValue := by
  intro p v s low high
  obtain ⟨lo, hi, data, sum⟩ := valueData_spec v
  refine ⟨lo, hi, sum, ?_⟩
  rw [exec_bldSv_admitted p s low high, data]
  exact next_buildFrame (lenBytes_two lo hi) 0x02 p s

/-- Settles O22: the frame of `buildSetValue` holds the two bytes of the value modulo 65536, and
the hex string determines the frame. -/
theorem setValueFoldsModulo : Obligations.SetValueFoldsModulo := by
  intro p v w s lowV highV lowW highW
  obtain ⟨lo, hi, sumV, hv⟩ := buildSetValue p v s lowV highV
  obtain ⟨lo', hi', sumW, hw⟩ := buildSetValue p w s lowW highW
  rw [hv, hw]
  constructor
  · intro same
    have frames := hexStr_injective _ _
      (Result.hex.inj (Option.some.inj (congrArg State.res (Host.Outcome.next.inj same))))
    simp only [List.cons.injEq, true_and] at frames
    obtain ⟨rfl, rfl, -⟩ := frames
    omega
  · intro same
    have lowByte := lo.isLt
    have lowByte' := lo'.isLt
    obtain rfl : lo = lo' := BitVec.eq_of_toNat_eq (by omega)
    obtain rfl : hi = hi' := BitVec.eq_of_toNat_eq (by omega)
    rfl

/-! ## The literals -/

/-- Settles O26: each operation completes with the literal of rule R5. -/
theorem queryLiteralOperations : Obligations.QueryLiteralOperations :=
  fun _ => ⟨rfl, rfl⟩

theorem map_hexDigit_mem (digits : List Nibble) :
    ∀ c ∈ digits.map hexDigit, c ∈ "0123456789abcdef".toList := by
  intro c hc
  obtain ⟨a, -, rfl⟩ := List.mem_map.mp hc
  exact hexDigit_mem a

/-- Settles O27: each operation completes with the digits the constants hold, written out. -/
theorem autoModeLiteralOperations : Obligations.AutoModeLiteralOperations :=
  fun s => ⟨rfl, rfl, map_hexDigit_mem s.params.litAutoOn, map_hexDigit_mem s.params.litAutoOff⟩

/-- The printed literals as the hex strings of their bytes (rule R91, rule R95, rule R96). -/
theorem hexStr_statusQuery :
    hexStr [0x02, 0x01, 0x00, 0x06, 0x00, 0x00, 0x00, 0x00, 0x61, 0x03] =
      "02010006000000006103".toList := by decide

theorem hexStr_settingsQuery :
    hexStr [0x02, 0x01, 0x00, 0x05, 0x00, 0x16, 0x00, 0x00, 0x24, 0x03] =
      "02010005001600002403".toList := by decide

/-- Settles O28: the two frames carry the CRC bytes 0x61 and 0x24 of `defaultTableContent`, and
so are the bytes of the printed literals. -/
theorem queryLiteralsAreFrames : Obligations.QueryLiteralsAreFrames := by
  obtain ⟨-, status, settings⟩ := defaultTableContent
  constructor
  · rw [← hexStr_statusQuery, ← status]
    rfl
  · rw [← hexStr_settingsQuery, ← settings]
    rfl

/-! ## Frames and rows -/

/-- Settles O30: each of the five arms is the shared refusal. -/
theorem frameRowsAreNoTransactions : Obligations.FrameRowsAreNoTransactions :=
  fun _ _ _ _ _ _ => ⟨rfl, rfl, rfl, rfl, rfl⟩

/-- Settles O29: the frames of `buildRead`, `buildSetValue` and `buildSetSwitch` are encodings of
well-formed instructions of their rows, which `decodeAfterEncode` decodes. -/
theorem builtFramesMatchRows : Obligations.BuiltFramesMatchRows := by
  refine ⟨fun p s => ?read, fun p v s low high => ?setParam, fun p on s => ?setSwitch⟩
  case read =>
    exact ⟨_, _, _, buildRead p s, rfl, decodeAfterEncode (.frameRead p _ 0x03) rfl⟩
  case setParam =>
    obtain ⟨lo, hi, sum, next⟩ := buildSetValue p v s low high
    exact ⟨_, _, lo, hi, _, next, rfl, decodeAfterEncode (.frameSetParam p lo hi _ 0x03) rfl, sum⟩
  case setSwitch =>
    refine ⟨_, _, _, buildSetSwitch p on s, rfl,
      decodeAfterEncode (.frameSetSwitch p _ _ 0x03) ?_⟩
    cases on <;> rfl

/-- A builder's frame decodes to an instruction of one of the three builders' rows. -/
theorem decode_of_builder {i : Instr} {s t : State}
    (builder : (∃ p, i = .bldRd p) ∨ (∃ p v, i = .bldSv p v) ∨ (∃ p b, i = .bldSw p b))
    (h : exec i s = .next t) :
    ∃ f j, t.res = some (.hex (hexStr f)) ∧ decode (.frame f) = .ok j ∧
      ((∃ p c e, j = .frameRead p c e) ∨ (∃ p lo hi c e, j = .frameSetParam p lo hi c e) ∨
        (∃ p d c e, j = .frameSetSwitch p d c e)) := by
  obtain ⟨read, setParam, setSwitch⟩ := builtFramesMatchRows
  obtain ⟨p, rfl⟩ | ⟨p, v, rfl⟩ | ⟨p, on, rfl⟩ := builder
  · obtain ⟨t', f, c, next, hres, hdec⟩ := read p s
    cases next.symm.trans h
    exact ⟨f, _, hres, hdec, .inl ⟨_, _, _, rfl⟩⟩
  · by_cases admitted : -32768 ≤ v ∧ v ≤ 65535
    · obtain ⟨t', f, lo, hi, c, next, hres, hdec, -⟩ := setParam p v s admitted.1 admitted.2
      cases next.symm.trans h
      exact ⟨f, _, hres, hdec, .inr (.inl ⟨_, _, _, _, _, rfl⟩)⟩
    · cases (setValueOutOfRangeRefused p v s (by omega)).symm.trans h
  · obtain ⟨t', f, c, next, hres, hdec⟩ := setSwitch p on s
    cases next.symm.trans h
    exact ⟨f, _, hres, hdec, .inr (.inr ⟨_, _, _, _, rfl⟩)⟩

/-- Settles O25: the bytes of the literals decode to the two query rows (`selectCodesDecode`),
those of a builder's frame to a builder's row, and the hex string determines the bytes. -/
theorem buildersNeverGiveQueryLiterals : Obligations.BuildersNeverGiveQueryLiterals := by
  intro i s t builder h
  obtain ⟨f, j, hres, hdec, row⟩ := decode_of_builder builder h
  obtain ⟨-, -, -, -, -, -, -, -, -, -, -, statusRow, settingsRow⟩ := selectCodesDecode
  rw [hres, ← hexStr_statusQuery, ← hexStr_settingsQuery]
  constructor
  · intro same
    obtain rfl := hexStr_injective _ _ (Result.hex.inj (Option.some.inj same))
    cases statusRow.symm.trans hdec
    simp at row
  · intro same
    obtain rfl := hexStr_injective _ _ (Result.hex.inj (Option.some.inj same))
    cases settingsRow.symm.trans hdec
    simp at row

end Sys2Proof.Machine
end

section
/-!
PROOFS. The status demultiplexer's numbers, dates and minutes (rule R122, rule R128, rule R144,
rule R150), and what each field of the record depends on (rule R39, rule R158, rule R159).
-/

namespace Sys2Proof.Machine

open Sys2Proof

/-! ## Temperatures, flags, dates, minutes -/

/-- Settles O34: every temperature is `temp16` of its two elements, read by `temp16_spec`. -/
theorem statusTemperatures : Obligations.StatusTemperatures := by
  intro values v s hv signedPair
  refine exec_decSt_of_elements hv s fun p up hp => ?_
  have pair (k : Nat) (hk : k + 1 < 86) : signedPair (temp16 p[k] p[k + 1]) k := by
    rw [hp k (by omega), hp (k + 1) hk]
    exact temp16_spec (v k) (v (k + 1))
  refine ⟨fun i => ?sensor, pair 55 (by decide), pair 57 (by decide), pair 78 (by decide),
    pair 80 (by decide)⟩
  have next : 17 + 2 * i.val = 16 + 2 * i.val + 1 := by omega
  simp only [recordOf, Vector.getElem_ofFn, next]
  exact pair (16 + 2 * i.val) (by omega)

/-- Settles O36: both flags are `nonzero` of their own element. -/
theorem statusLoweredFlags : Obligations.StatusLoweredFlags := by
  intro values v s hv
  refine exec_decSt_of_elements hv s fun p up hp => ?_
  rw [← hp 50 (by decide), ← hp 51 (by decide)]
  exact ⟨nonzero_iff p[50], nonzero_iff p[51]⟩

section
variable {y mo d h mi sec : Byte}

theorem date6_of_validDate
    (valid : validDate (2000 + y.toNat) mo.toNat d.toNat h.toNat mi.toNat sec.toNat = true) :
    date6 y mo d h mi sec =
      some ⟨2000 + y.toNat, mo.toNat, d.toNat, h.toNat, mi.toNat, sec.toNat⟩ :=
  if_pos valid

theorem date6_of_not_validDate
    (invalid : ¬ validDate (2000 + y.toNat) mo.toNat d.toNat h.toNat mi.toNat sec.toNat = true) :
    date6 y mo d h mi sec = none :=
  if_neg invalid

theorem date5_of_validDate
    (valid : validDate (2000 + y.toNat) mo.toNat d.toNat h.toNat mi.toNat 0 = true) :
    date5 y mo d h mi = some ⟨2000 + y.toNat, mo.toNat, d.toNat, h.toNat, mi.toNat⟩ := by
  rw [date5, date6_of_validDate valid]

theorem date5_of_not_validDate
    (invalid : ¬ validDate (2000 + y.toNat) mo.toNat d.toNat h.toNat mi.toNat 0 = true) :
    date5 y mo d h mi = none := by
  rw [date5, date6_of_not_validDate invalid]

end

/-- Settles O37: the two dates are `date6` and `date5` of their elements, and the test in them is
the calendar's (`validDate_iff`). -/
theorem statusDates : Obligations.StatusDates := by
  intro values v s hv n leapYear valid
  have test (y mo d h mi sec : Nat) :
      validDate y mo d h mi sec = true ↔ valid y mo d h mi sec := validDate_iff y mo d h mi sec
  refine exec_decSt_of_elements hv s fun p up hp => ?_
  have datetime : (recordOf p up).datetime = date6 (v 44) (v 45) (v 46) (v 47) (v 48) (v 49) := by
    simp only [recordOf, hp]
  have loadDate : (recordOf p up).fuelLoadDate = date5 (v 68) (v 69) (v 70) (v 71) (v 72) := by
    simp only [recordOf, hp]
  rw [datetime, loadDate, ← test, ← test]
  exact ⟨date6_of_validDate, date6_of_not_validDate, date5_of_validDate, date5_of_not_validDate⟩

/-- The feeder minutes are within half a tenth of a sixth of the seconds, by the remainder of
the seconds; at a tie they are either neighbour. -/
theorem minuteTenths_nearest (secs : BitVec 32) (up : Bool) :
    let q := secs.toNat / 6
    let m := minuteTenths secs up
    (secs.toNat % 6 ≤ 2 → m = q) ∧ (4 ≤ secs.toNat % 6 → m = q + 1) ∧
    (secs.toNat % 6 = 3 → m = q ∨ m = q + 1) ∧
    6 * m ≤ secs.toNat + 3 ∧ secs.toNat ≤ 6 * m + 3 ∧ m ≤ 715827883 := by
  intro q m
  have seconds := secs.isLt
  obtain ⟨below, above, tie⟩ := minuteTenths_spec secs up
  have neighbour : secs.toNat % 6 = 3 → m = q ∨ m = q + 1 := fun three => by
    cases up
    · exact .inl (tie three)
    · exact .inr (tie three)
  refine ⟨below, above, neighbour, ?_, ?_, ?_⟩ <;> omega

/-- Settles O38: the minutes are `minuteTenths` of the seconds field. -/
theorem statusFeederMinutes : Obligations.StatusFeederMinutes :=
  fun values s long => ⟨_, _, execDecSt_long values s long, minuteTenths_nearest _ _⟩

/-! ## What the fields depend on -/

/-- The record `DEC.ST` leaves is that of the reply's payload, with the draw of the state it
began in. -/
theorem eq_recordOf_of_exec {values : List Byte} {s t : State} {r : StatusRecord}
    (h : exec (.decSt values) s = .next t) (hres : t.res = some (.record r)) :
    ∃ long : 86 ≤ values.length, r = recordOf (payloadOf values long)
      (Config.roundTie s.draws (feederSeconds (payloadOf values long))) := by
  rw [exec_decSt] at h
  by_cases long : 86 ≤ values.length
  · rw [execDecSt_long values s long] at h
    cases h
    cases hres
    exact ⟨long, rfl⟩
  · rw [execDecSt_short values s long] at h
    cases h
    cases hres

theorem payloadOf_congr {values values' : List Byte} (long : 86 ≤ values.length)
    (long' : 86 ≤ values'.length) {k : Nat} (hk : k < 86) (same : values[k]? = values'[k]?) :
    (payloadOf values long)[k] = (payloadOf values' long')[k] := by
  rw [payloadOf_getElem, payloadOf_getElem]
  rw [List.getElem?_eq_getElem (by omega), List.getElem?_eq_getElem (by omega)] at same
  exact Option.some.inj same

/-- The seconds, and with them the draw, are made of elements 64 to 67. -/
theorem feederSeconds_congr {p q : Payload}
    (same : ∀ k (hk : k < 86), 64 ≤ k → k ≤ 67 → p[k] = q[k]) :
    feederSeconds p = feederSeconds q := by
  simp [feederSeconds, same]

/-- Settles O40: both records are given by `recordOf`, each of whose fields reads the payload at
its own offsets alone. -/
theorem statusFieldIndependence : Obligations.StatusFieldIndependence := by
  intro values values' s t t' r r' h hres h' hres' same
  obtain ⟨long, rfl⟩ := eq_recordOf_of_exec h hres
  obtain ⟨long', rfl⟩ := eq_recordOf_of_exec h' hres'
  have within {lo hi : Nat} (hs : same lo hi) (k : Nat) (hk : k < 86) (low : lo ≤ k)
      (high : k ≤ hi) : (payloadOf values long)[k] = (payloadOf values' long')[k] :=
    payloadOf_congr long long' hk (hs k low high)
  have one {k : Nat} (hs : same k k) (hk : k < 86) :
      (payloadOf values long)[k] = (payloadOf values' long')[k] :=
    within hs k hk (Nat.le_refl k) (Nat.le_refl k)
  have pair {α : Type} (f : Byte → Byte → α) {k : Nat} (hs : same k (k + 1)) (hk : k + 1 < 86) :
      f (payloadOf values long)[k] (payloadOf values long)[k + 1] =
        f (payloadOf values' long')[k] (payloadOf values' long')[k + 1] :=
    congrArg₂ f (within hs k (by omega) (by omega) (by omega))
      (within hs (k + 1) hk (by omega) (by omega))
  have seconds (hs : same 64 67) :
      feederSeconds (payloadOf values long) = feederSeconds (payloadOf values' long') :=
    feederSeconds_congr (within hs)
  refine ⟨fun i hs => ?sensorHealth,
    fun i hs => ?sensorTemp,
    fun hs => congrArg (fun b => Vector.ofFn fun i : Fin 8 => bit b i.val) (one hs (by decide)),
    fun hs => one hs (by decide),
    fun hs => congrArg isone (one hs (by decide)),
    fun hs => one hs (by decide),
    fun hs => one hs (by decide),
    fun hs => one hs (by decide),
    fun hs => one hs (by decide),
    fun hs => one hs (by decide),
    fun hs => ⟨pair u16le hs (by decide), congrArg nonzero16 (pair u16le hs (by decide))⟩,
    fun hs => one hs (by decide),
    fun hs => one hs (by decide),
    fun hs => ?datetime,
    fun hs => congrArg nonzero (one hs (by decide)),
    fun hs => congrArg nonzero (one hs (by decide)),
    fun hs => one hs (by decide),
    fun hs => one hs (by decide),
    fun hs => one hs (by decide),
    fun hs => pair temp16 hs (by decide),
    fun hs => pair temp16 hs (by decide),
    fun hs => one hs (by decide),
    fun hs => one hs (by decide),
    fun hs => one hs (by decide),
    fun hs => pair u16le hs (by decide),
    fun hs => ⟨seconds hs, ?minutes⟩,
    fun hs => ?loadDate,
    fun hs hs' => ?fuelRemaining,
    fun hs => one hs (by decide),
    fun hs => one hs (by decide),
    fun hs => pair temp16 hs (by decide),
    fun hs => pair temp16 hs (by decide),
    fun hs => one hs (by decide),
    fun hs => congrArg nonzero (one hs (by decide))⟩
  case sensorHealth =>
    simp only [recordOf, Vector.getElem_ofFn]
    exact one hs (by omega)
  case sensorTemp =>
    simp only [recordOf, Vector.getElem_ofFn]
    exact congrArg₂ temp16 (within hs _ (by omega) (by omega) (by omega))
      (within hs _ (by omega) (by omega) (by omega))
  case datetime => simp only [recordOf, within hs, Nat.reduceLeDiff]
  case minutes => simp only [recordOf, seconds hs, within hs, Nat.reduceLeDiff]
  case loadDate => simp only [recordOf, within hs, Nat.reduceLeDiff]
  case fuelRemaining => simp only [recordOf, within hs, one hs', Nat.reduceLeDiff]

/-- The record reads the payload at 8 to 83. -/
theorem recordOf_congr {p q : Payload} (same : ∀ k (hk : k < 86), 8 ≤ k → k ≤ 83 → p[k] = q[k])
    (up : Bool) : recordOf p up = recordOf q up := by
  simp (disch := omega) only [recordOf, same]

/-- Settles O39: the draw and the record read the payload at 8 to 83. -/
theorem statusUnreadOffsets : Obligations.StatusUnreadOffsets := by
  intro values values' s long long' same
  have elements : ∀ k (hk : k < 86), 8 ≤ k → k ≤ 83 →
      (payloadOf values long)[k] = (payloadOf values' long')[k] :=
    fun k hk low high => payloadOf_congr long long' hk (same k low high)
  have seconds : feederSeconds (payloadOf values long) = feederSeconds (payloadOf values' long') :=
    feederSeconds_congr fun k hk low high => elements k hk (by omega) (by omega)
  rw [exec_decSt, exec_decSt, execDecSt_long values s long, execDecSt_long values' s long',
    takeDraw, takeDraw, drawsTie, drawsTie, seconds, recordOf_congr elements]

/-! ## An invalid month (rule R192) -/

/-- No calendar date has month 0 or a month from 13 on (rule R128). -/
theorem date6_of_month {mo : Byte} (hmo : mo = 0 ∨ 13 ≤ mo.toNat) (y d h mi sec : Byte) :
    date6 y mo d h mi sec = none := by
  refine date6_of_not_validDate fun valid => ?_
  obtain ⟨⟨low, high⟩, -⟩ := (validDate_iff ..).mp valid
  obtain rfl | above := hmo
  · exact absurd low (by decide)
  · omega

theorem payloadOf_set {values : List Byte} (long : 86 ≤ values.length) (b : Byte)
    (long' : 86 ≤ (values.set 45 b).length) (k : Nat) (hk : k < 86) :
    (payloadOf (values.set 45 b) long')[k] = if 45 = k then b else (payloadOf values long)[k] := by
  rw [payloadOf_getElem, payloadOf_getElem, List.getElem_set]

/-- Settles O41: element 45 is read by the date-time field alone, which an invalid month
blanks (`date6_of_month`). -/
theorem invalidDateBlanksOneField : Obligations.InvalidDateBlanksOneField := by
  intro values month s long hmonth
  have long' : 86 ≤ (values.set 45 month).length := by rw [List.length_set]; exact long
  have other (k : Nat) (hk : k < 86) (hne : 45 ≠ k) :
      (payloadOf (values.set 45 month) long')[k] = (payloadOf values long)[k] := by
    rw [payloadOf_set long, if_neg hne]
  have seconds : feederSeconds (payloadOf (values.set 45 month) long') =
      feederSeconds (payloadOf values long) :=
    feederSeconds_congr fun k hk low _ => other k hk (by omega)
  have blank (up : Bool) : recordOf (payloadOf (values.set 45 month) long') up =
      { recordOf (payloadOf values long) up with datetime := none } := by
    have month45 : (payloadOf (values.set 45 month) long')[45] = month := by
      rw [payloadOf_set long, if_pos rfl]
    simp (disch := omega) only [recordOf, other, month45, date6_of_month hmonth]
  refine ⟨_, _, execDecSt_long values s long, ?_⟩
  rw [exec_decSt, execDecSt_long _ s long', takeDraw, drawsTie, seconds, blank]
  rfl

end Sys2Proof.Machine
end

section
/-!
PROOFS. The operations as a whole (rule R10, rule R11, rule R24, rule R190, rule R196, rule R202):
what an operation writes is a function of its operands and of the constants, and of the draws for
`DEC.ST`; so are the outcomes by family, what is left unchanged and what is not read.
-/

namespace Sys2Proof.Machine

open Sys2Proof

/-- What an operation writes: `ST`, `RES`, `ACC` where it computes a CRC, and whether it makes a
draw (rule R10, rule R22, rule R150). -/
structure Effect where
  st : Status
  res : Option Result
  acc : Option Byte
  draw : Bool

/-- A result, with no CRC computed and no draw made. -/
def Effect.done (r : Result) : Effect where
  st := .ok
  res := some r
  acc := none
  draw := false

/-- A failure (rule R200). -/
def Effect.failed (f : Failure) : Effect where
  st := .failed f
  res := none
  acc := none
  draw := false

/-- `CRC bytes` (rule R82). -/
def Effect.crc (c : Byte) : Effect where
  st := .ok
  res := some (.crc8 c)
  acc := some c
  draw := false

/-- A builder's frame under a table (rule R92 to rule R94). -/
def Effect.built (table : Vector Byte 256) (cmd param : Byte) (data : List Byte) : Effect where
  st := .ok
  res := some (.hex (hexStr (frameBytes table cmd 0x00 param data)))
  acc := some (Machine.crc table (frameBody cmd 0x00 param data))
  draw := false

/-- The record of a payload, decoded after so many draws (rule R120, rule R150). -/
def Effect.decoded (v : Payload) (draws : Nat) : Effect where
  st := .ok
  res := some (.record (recordOf v (Config.roundTie draws (feederSeconds v))))
  acc := none
  draw := drawsTie v

/-- The state after a write. -/
def Effect.apply (e : Effect) (s : State) : State :=
  { s with
    st := e.st
    res := e.res
    acc := e.acc.getD s.acc
    draws := if e.draw then s.draws + 1 else s.draws }

/-- What an instruction writes, or the refusal it meets, given the constants and the number of
draws made: the state's other fields are not read (rule R10). -/
def effectOf (i : Instr) (p : Params) (draws : Nat) : Except Refusal Effect :=
  match i with
  | .crc bytes => .ok (.crc (Machine.crc p.table bytes))
  | .bldRd param => .ok (.built p.table 0x01 param [])
  | .bldSv param value =>
    if valueAdmitted value then .ok (.built p.table 0x02 param (valueData value))
    else .error (.valueOutOfRange value)
  | .bldSw param on => .ok (.built p.table 0x05 param (switchData on))
  | .litStatus => .ok (.done (.hex litStatusString))
  | .litSettings => .ok (.done (.hex litSettingsString))
  | .litAutoOn => .ok (.done (.hex (p.litAutoOn.map hexDigit)))
  | .litAutoOff => .ok (.done (.hex (p.litAutoOff.map hexDigit)))
  | .decSt values =>
    if h : 86 ≤ values.length then .ok (.decoded (payloadOf values h) draws)
    else .ok (.failed .tooShort)
  | .prgDec bytes42 =>
    if h : bytes42.length = 42 then .ok (.done (.days (daysOf (bitmapOf bytes42 h))))
    else .ok (.failed .badLength)
  | .prgEnc days =>
    if weekShaped days then
      if weekChars days then .ok (.done (.bytes (bytesOf days))) else .ok (.failed .badChar)
    else .ok (.failed .badLength)
  | .frameRead _ _ _ => .error .frameIsNoTransaction
  | .frameSetParam _ _ _ _ _ => .error .frameIsNoTransaction
  | .frameSetSwitch _ _ _ _ => .error .frameIsNoTransaction
  | .frameStatusQuery _ _ => .error .frameIsNoTransaction
  | .frameSettingsQuery _ _ => .error .frameIsNoTransaction

/-- The outcome of a write on a state. -/
def outcomeOn (s : State) (x : Except Refusal Effect) : Host.Outcome State Fault Refusal :=
  match x with
  | .ok e => .next (e.apply s)
  | .error r => .refused r

/-- Everything an instruction does is its effect on the state. -/
theorem exec_eq_outcomeOn (i : Instr) (s : State) :
    exec i s = outcomeOn s (effectOf i s.params s.draws) := by
  cases i with
  | crc bytes => exact execCrc_eq bytes s
  | bldRd param => exact congrArg Host.Outcome.next (buildFrame_eq 0x01 param [] s)
  | bldSv param value =>
    by_cases admitted : valueAdmitted value = true
    · simp only [exec, execBldSv, effectOf, admitted, if_true]
      exact congrArg Host.Outcome.next (buildFrame_eq 0x02 param (valueData value) s)
    · simp [exec, execBldSv, effectOf, admitted, outcomeOn]
  | bldSw param on => exact congrArg Host.Outcome.next (buildFrame_eq 0x05 param (switchData on) s)
  | decSt values =>
    rw [exec_decSt]
    by_cases long : 86 ≤ values.length
    · rw [execDecSt_long values s long, effectOf, dif_pos long]
      rfl
    · rw [execDecSt_short values s long, effectOf, dif_neg long]
      rfl
  | prgDec bytes42 =>
    rw [exec_prgDec]
    by_cases right : bytes42.length = 42
    · rw [execPrgDec_right bytes42 s right, effectOf, dif_pos right]
      rfl
    · rw [execPrgDec_wrong bytes42 s right, effectOf, dif_neg right]
      rfl
  | prgEnc days =>
    rw [exec_prgEnc]
    by_cases shape : weekShaped days = true
    · by_cases chars : weekChars days = true
      · rw [execPrgEnc_right s shape chars, effectOf, if_pos shape, if_pos chars]
        rfl
      · rw [execPrgEnc_badChar s shape chars, effectOf, if_pos shape, if_neg chars]
        rfl
    · rw [execPrgEnc_badLength s shape, effectOf, if_neg shape]
      rfl
  | _ => rfl

theorem exec_eq_next_iff (i : Instr) (s t : State) :
    exec i s = .next t ↔ ∃ e, effectOf i s.params s.draws = .ok e ∧ t = e.apply s := by
  rw [exec_eq_outcomeOn]
  cases effectOf i s.params s.draws with
  | ok e => simp [outcomeOn, eq_comm]
  | error r => simp [outcomeOn]

theorem exec_eq_refused_iff (i : Instr) (s : State) (r : Refusal) :
    exec i s = .refused r ↔ effectOf i s.params s.draws = .error r := by
  rw [exec_eq_outcomeOn]
  cases effectOf i s.params s.draws with
  | ok e => simp [outcomeOn]
  | error r' => simp [outcomeOn]

/-- Only `DEC.ST` looks at the draws. -/
theorem effectOf_draws {i : Instr} {n m : Nat} (p : Params)
    (h : (∃ values, i = .decSt values) → n = m) : effectOf i p n = effectOf i p m := by
  cases i with
  | decSt values => rw [h ⟨values, rfl⟩]
  | _ => rfl

/-- Settles O51: the effect does not read `ST` and `RES`, and writing it overwrites both. -/
theorem nothingSticks : Obligations.NothingSticks := by
  intro i s st res
  rw [exec_eq_outcomeOn, exec_eq_outcomeOn]
  cases effectOf i s.params s.draws <;> rfl

/-- Settles O52: the two states meet one effect or one refusal. -/
theorem operationsReadNoState : Obligations.OperationsReadNoState := by
  intro i s u hparams hdraws
  have same : effectOf i u.params u.draws = effectOf i s.params s.draws := by
    rw [hparams, effectOf_draws u.params hdraws]
  constructor
  · intro t h
    obtain ⟨e, he, rfl⟩ := (exec_eq_next_iff i s t).mp h
    exact ⟨e.apply u, (exec_eq_next_iff i u _).mpr ⟨e, same.trans he, rfl⟩, rfl, rfl⟩
  · intro r h
    rw [exec_eq_refused_iff, same]
    exact (exec_eq_refused_iff i s r).mp h

/-- Writing an effect that makes no draw twice is writing it once. -/
theorem Effect.apply_apply (e : Effect) (s : State) (h : (e.apply s).draws = s.draws) :
    e.apply (e.apply s) = e.apply s := by
  have noDraw : e.draw = false := by
    cases hd : e.draw with
    | false => rfl
    | true => simp [Effect.apply, hd] at h
  cases hacc : e.acc <;> simp [Effect.apply, noDraw, hacc]

/-- Settles O53: with no draw made the second issue meets the same effect. -/
theorem operationsAreIdempotent : Obligations.OperationsAreIdempotent := by
  intro i s t h hdraws
  obtain ⟨e, he, rfl⟩ := (exec_eq_next_iff i s t).mp h
  refine (exec_eq_next_iff i _ _).mpr ⟨e, ?_, (e.apply_apply s hdraws).symm⟩
  rw [hdraws]
  exact he

/-- Only `CRC` and the builders compute a CRC. -/
theorem effectOf_acc {i : Instr} {p : Params} {n : Nat} {e : Effect} (h : effectOf i p n = .ok e) :
    e.acc = none ∨ (∃ l, i = .crc l) ∨ (∃ p, i = .bldRd p) ∨ (∃ p v, i = .bldSv p v) ∨
      (∃ p b, i = .bldSw p b) := by
  revert h
  fun_cases effectOf i p n <;> intro h <;> cases h
  all_goals simp [Effect.done, Effect.failed, Effect.decoded]

/-- Only `DEC.ST` makes a draw. -/
theorem effectOf_draw {i : Instr} {p : Params} {n : Nat} {e : Effect}
    (h : effectOf i p n = .ok e) : e.draw = false ∨ ∃ l, i = .decSt l := by
  revert h
  fun_cases effectOf i p n <;> intro h <;> cases h
  all_goals simp [Effect.done, Effect.failed, Effect.crc, Effect.built]

/-- Settles O54: no effect writes the constants and the host's list; `ACC` and the draws are
`effectOf_acc` and `effectOf_draw`. -/
theorem operationFrame : Obligations.OperationFrame := by
  intro i s t h
  obtain ⟨e, he, rfl⟩ := (exec_eq_next_iff i s t).mp h
  refine ⟨rfl, rfl, (effectOf_acc he).imp_left fun hacc => ?_,
    (effectOf_draw he).imp_left fun hdraw => ?_⟩
  · simp [Effect.apply, hacc]
  · simp [Effect.apply, hdraw]

/-- Settles O48: the effect of each constructor, read in `ST` and `RES`. -/
theorem outcomesByFamily : Obligations.OutcomesByFamily := by
  intro i s t h
  obtain ⟨e, he, rfl⟩ := (exec_eq_next_iff i s t).mp h
  cases i with
  | crc | bldRd | bldSw | litStatus | litSettings | litAutoOn | litAutoOff =>
    cases he
    exact ⟨rfl, _, rfl⟩
  | bldSv param value =>
    simp only [effectOf] at he
    split at he <;> cases he
    exact ⟨rfl, _, rfl⟩
  | decSt values =>
    simp only [effectOf] at he
    split at he
    · cases he
      exact .inl ⟨rfl, _, rfl⟩
    · cases he
      exact .inr ⟨rfl, rfl⟩
  | prgDec bytes42 =>
    simp only [effectOf] at he
    split at he
    · cases he
      exact .inl ⟨rfl, _, rfl⟩
    · cases he
      exact .inr ⟨rfl, rfl⟩
  | prgEnc days =>
    simp only [effectOf] at he
    split at he
    · split at he
      · cases he
        exact .inl ⟨rfl, _, rfl⟩
      · cases he
        exact .inr ⟨.inr rfl, rfl⟩
    · cases he
      exact .inr ⟨.inl rfl, rfl⟩
  | _ => cases he

/-- Settles O56: `effectOf` has an error for a value out of range and for the frame rows alone,
and an outcome on a state is never a fault. -/
theorem refusalsExactly : Obligations.RefusalsExactly := by
  intro i s
  refine ⟨fun r => ?refusal, fun f => ?fault⟩
  case fault =>
    rw [exec_eq_outcomeOn]
    cases effectOf i s.params s.draws <;> simp [outcomeOn]
  case refusal =>
    rw [exec_eq_refused_iff]
    cases i with
    | bldSv param value =>
      by_cases admitted : valueAdmitted value = true
      · have inRange := (valueAdmitted_iff value).mp admitted
        have notOut : ¬ (value < -32768 ∨ 65535 < value) := by omega
        simp [effectOf, admitted, notOut]
      · have out : value < -32768 ∨ 65535 < value := by
          rw [valueAdmitted_iff] at admitted
          omega
        simp [effectOf, admitted, out, eq_comm]
    | frameRead | frameSetParam | frameSetSwitch | frameStatusQuery | frameSettingsQuery =>
      simp [effectOf, eq_comm]
    | decSt | prgDec | prgEnc =>
      simp only [effectOf]
      repeat' split
      all_goals simp
    | _ => simp [effectOf]

end Sys2Proof.Machine
end

section
/-!
PROOFS. The host's events (rule R13, rule R14, rule R44, rule R63, rule R196, rule R220, rule R222):
what a step does with each, and what a refusal leaves.
-/

namespace Sys2Proof.Machine

open Sys2Proof

/-! ## One step -/

/-- With an event pending a step is that event, taken from the host's list (rule R14). -/
theorem step_of_host {s : State} {e : HostEvent} {rest : List HostEvent}
    (h : s.host = e :: rest) : step s = hostEvent e { s with host := rest } := by
  simp [step, nextEvent, h]

theorem step_of_host_nil {s : State} (h : s.host = []) : step s = .next s := by
  simp [step, nextEvent, h]

theorem hostReadRes_some {s : State} {r : Result} (h : s.res = some r) :
    hostReadRes s = .next s := by
  simp [hostReadRes, readRes, h]

theorem hostReadRes_none {s : State} (h : s.res = none) : hostReadRes s = .refused .emptyRead := by
  simp [hostReadRes, readRes, h]

/-! The three ends of an issue (rule R44, rule R50). -/

theorem issueRequest_error {r : Request} {e : DecodeError} (hdec : decode r = .error e)
    (s : State) : issueRequest r s = .refused (refusalOf e) := by
  simp [issueRequest, hdec]

theorem issueRequest_fits {r : Request} {i : Instr} {s : State} (hdec : decode r = .ok i)
    (fits : fitsBound s.params.nmax i = true) : issueRequest r s = exec i s := by
  simp [issueRequest, hdec, fits]

theorem issueRequest_tooLong {r : Request} {i : Instr} {s : State} (hdec : decode r = .ok i)
    (tooLong : fitsBound s.params.nmax i = false) :
    issueRequest r s = .refused .operandTooLong := by
  simp [issueRequest, hdec, tooLong]

/-- Settles O1: the fields of `State.reset`. -/
theorem resetState : Obligations.ResetState := ⟨rfl, rfl, rfl, rfl⟩

/-- Settles O2: the step is `applyReset` on the state with the event taken. -/
theorem resetEventRestores : Obligations.ResetEventRestores := by
  intro s rest h
  exact ⟨applyReset { s with host := rest }, step_of_host h, rfl, rfl, rfl, rfl, rfl⟩

/-- Settles O3: the request decodes and fits the bound, so its issue is `exec`. -/
theorem stepRunsDecodedOperation : Obligations.StepRunsDecodedOperation := by
  intro s r rest i h hdec _ fits
  rw [step_of_host h]
  exact issueRequest_fits hdec fits

/-- Settles O4: the read is `hostReadRes`, whose two ends are told by `RES`. -/
theorem resultReads : Obligations.ResultReads := by
  intro s rest h
  rw [step_of_host h]
  refine ⟨fun r hres => ⟨hostReadRes_some hres, ?_⟩, fun hres => hostReadRes_none hres⟩
  simp [readRes, hres]

/-- Settles O5: with no event the step is the state itself, and a read of `ST` takes the event. -/
theorem idleAndStatusReads : Obligations.IdleAndStatusReads :=
  ⟨fun _ h => step_of_host_nil h, fun _ _ h => ⟨step_of_host h, rfl⟩⟩

/-- No row has a select code from 0x0B on (rule R63). -/
theorem decodeOp_unassigned {opsel : Byte} (h : 0x0B ≤ opsel.toNat) (operands : List Operand) :
    decodeOp opsel operands = .error (.unknownOp opsel) := by
  unfold decodeOp
  split
  case h_12 => exact if_neg (by omega)
  all_goals omega

/-- Settles O6: such a code does not decode, and the issue is refused by its name. -/
theorem unassignedCodesRefused : Obligations.UnassignedCodesRefused := by
  intro s opsel operands rest hcode h
  have undecoded : decode (.op opsel operands) = .error (.unknownOp opsel) :=
    decodeOp_unassigned hcode operands
  rw [step_of_host h]
  exact issueRequest_error undecoded _

/-- Settles O7: a step that refuses has taken an event, and `afterEvent` drops that event. -/
theorem refusalsWriteNothing : Obligations.RefusalsWriteNothing := by
  intro s r h
  constructor
  · intro idle
    cases (step_of_host_nil idle).symm.trans h
  · have refused : nextEvent s = .refused r := h
    simp [afterEvent, refused]

/-! ## The operand bound (rule R44) -/

theorem not_fitsBound {n l : Nat} {i : Instr} (mem : l ∈ operandLengths i) (long : n < l) :
    fitsBound (some n) i = false := by
  simp only [fitsBound, List.all_eq_false, decide_eq_true_eq]
  exact ⟨l, mem, by omega⟩

/-- The issue of an instruction with a sequence operand longer than the bound is refused. -/
theorem step_tooLong {s : State} {n l : Nat} {i : Instr} {rest : List HostEvent}
    (bound : s.params.nmax = some n) (wf : i.wellFormed = true) (mem : l ∈ operandLengths i)
    (long : n < l) (h : s.host = .issue (encode i) :: rest) :
    step s = .refused .operandTooLong := by
  rw [step_of_host h]
  refine issueRequest_tooLong (decodeAfterEncode i wf) ?_
  rw [← not_fitsBound mem long, ← bound]

/-- Settles O8: each of the requests is the encoding of its operation, and the length in excess
is among its `operandLengths`. -/
theorem boundedOperandsOnly : Obligations.BoundedOperandsOnly := by
  intro s n rest bound
  constructor
  · intro opsel bytes hop long h
    obtain rfl | rfl | rfl := hop
    · exact step_tooLong (i := .crc bytes) bound rfl (List.mem_singleton.mpr rfl) long h
    · exact step_tooLong (i := .decSt bytes) bound rfl (List.mem_singleton.mpr rfl) long h
    · exact step_tooLong (i := .prgDec bytes) bound rfl (List.mem_singleton.mpr rfl) long h
  · intro days hlong h
    obtain long | ⟨day, hday, long⟩ := hlong
    · exact step_tooLong (i := .prgEnc days) bound rfl List.mem_cons_self long h
    · exact step_tooLong (i := .prgEnc days) bound rfl
        (List.mem_cons_of_mem _ (List.mem_map_of_mem hday)) long h

/-- Settles O55: waiting, reads and reset keep the constants, and every operation does
(`operationFrame`). -/
theorem constantsNeverChange : Obligations.ConstantsNeverChange := by
  intro s t h
  obtain rfl | ⟨e, rest, -, hevent⟩ := step_cases h
  · rfl
  · obtain rfl | rfl | ⟨r, i, -, -, hexec⟩ := hostEvent_cases hevent
    · rfl
    · rfl
    · obtain ⟨params, -⟩ := operationFrame i _ t hexec
      exact params

/-- The status a code stands for (rule R190). -/
def statusOfCode (n : Nat) : Status :=
  match n with
  | 0 => .ok
  | 1 => .failed .tooShort
  | 2 => .failed .badLength
  | _ => .failed .badChar

theorem statusOfCode_statusCode (s : Status) : statusOfCode (statusCode s) = s := by
  cases s with
  | ok => rfl
  | failed f => cases f <;> rfl

/-- Settles O49: the status can be read back from its code. -/
theorem statusCodes : Obligations.StatusCodes :=
  ⟨rfl, rfl, rfl, rfl, fun _ _ h => Function.LeftInverse.injective statusOfCode_statusCode h⟩

end Sys2Proof.Machine
end

section
/-!
PROOFS. The invariant (rule R11, rule R17, rule R200): every effect leaves `RES` with none or a
value of its type, so every step keeps it.
-/

namespace Sys2Proof.Machine

open Sys2Proof

/-! ## Hex strings -/

theorem hexWf_iff (p : Params) (h : Str) : hexWf p h = true ↔
    (∀ c ∈ h, c ∈ hexAlphabet) ∧
    (h.length % 2 = 0 ∨ h = p.litAutoOn.map hexDigit ∨ h = p.litAutoOff.map hexDigit) := by
  simp [hexWf, or_assoc]

theorem hexWf_hexStr (p : Params) (f : List Byte) : hexWf p (hexStr f) = true :=
  (hexWf_iff p _).mpr ⟨hexStr_mem f, .inl (by rw [hexStr_length]; omega)⟩

theorem hexWf_of_hexStr_eq (p : Params) {f : List Byte} {h : Str} (eq : hexStr f = h) :
    hexWf p h = true :=
  eq ▸ hexWf_hexStr p f

theorem hexWf_litStatus (p : Params) : hexWf p litStatusString = true :=
  hexWf_of_hexStr_eq p hexStr_statusQuery

theorem hexWf_litSettings (p : Params) : hexWf p litSettingsString = true :=
  hexWf_of_hexStr_eq p hexStr_settingsQuery

theorem hexWf_litAutoOn (p : Params) : hexWf p (p.litAutoOn.map hexDigit) = true :=
  (hexWf_iff p _).mpr ⟨map_hexDigit_mem _, .inr (.inl rfl)⟩

theorem hexWf_litAutoOff (p : Params) : hexWf p (p.litAutoOff.map hexDigit) = true :=
  (hexWf_iff p _).mpr ⟨map_hexDigit_mem _, .inr (.inr rfl)⟩

/-! ## Records (rule R17) -/

theorem isS16_temp16 (lo hi : Byte) : isS16 (temp16 lo hi) = true := by
  obtain ⟨low, high, -⟩ := temp16_spec lo hi
  simp [isS16, low, high]

theorem dateTimeWf_date6 (y mo d h mi sec : Byte) :
    (date6 y mo d h mi sec).all dateTimeWf = true := by
  by_cases valid : validDate (2000 + y.toNat) mo.toNat d.toNat h.toNat mi.toNat sec.toNat = true
  · have year := y.isLt
    simp only [date6_of_validDate valid, Option.all_some, dateTimeWf, valid, Bool.and_true,
      Bool.and_eq_true, decide_eq_true_eq]
    omega
  · rw [date6_of_not_validDate valid, Option.all_none]

theorem loadDateWf_date5 (y mo d h mi : Byte) : (date5 y mo d h mi).all loadDateWf = true := by
  by_cases valid : validDate (2000 + y.toNat) mo.toNat d.toNat h.toNat mi.toNat 0 = true
  · have year := y.isLt
    simp only [date5_of_validDate valid, Option.all_some, loadDateWf, valid, Bool.and_true,
      Bool.and_eq_true, decide_eq_true_eq]
    omega
  · rw [date5_of_not_validDate valid, Option.all_none]

/-- Every record the demultiplexer makes is one of rule R17, with its paired fields agreeing. -/
theorem recordWf_recordOf (v : Payload) (up : Bool) : recordWf (recordOf v up) = true := by
  have sensors : (recordOf v up).sensorTemp.toList.all isS16 = true := by
    simp only [List.all_eq_true, recordOf, Vector.mem_toList_iff, Vector.mem_ofFn]
    rintro _ ⟨i, rfl⟩
    exact isS16_temp16 _ _
  have minutes : ((recordOf v up).feederRuntimeMinTenths ==
        minuteTenths (recordOf v up).feederRuntimeS false ||
      (recordOf v up).feederRuntimeMinTenths ==
        minuteTenths (recordOf v up).feederRuntimeS true) = true := by
    cases up <;> simp [recordOf]
  rw [recordWf, sensors, minutes]
  simp [recordOf, isS16_temp16, dateTimeWf_date6, loadDateWf_date5]

/-! ## The invariant -/

theorem inv_of_res_none {s : State} (h : s.res = none) : s.Inv := by
  refine ⟨fun r hr => ?_, fun _ _ => h⟩
  cases h.symm.trans hr

theorem inv_of_result {s : State} {r : Result} (hst : s.st = .ok) (hres : s.res = some r)
    (wf : resultWf s.params r = true) : s.Inv := by
  constructor
  · intro r' hr'
    cases hres.symm.trans hr'
    exact wf
  · intro f hf
    cases hst.symm.trans hf

/-- Whatever the state before, the effect of an instruction leaves one that meets the invariant:
none in `RES`, or a result of the instruction's family and of its type. -/
theorem inv_apply_of_effectOf {i : Instr} {s : State} {e : Effect}
    (h : effectOf i s.params s.draws = .ok e) : (e.apply s).Inv := by
  cases i with
  | crc bytes => cases h; exact inv_of_result rfl rfl rfl
  | bldRd | bldSw => cases h; exact inv_of_result rfl rfl (hexWf_hexStr _ _)
  | bldSv param value =>
    simp only [effectOf] at h
    split at h <;> cases h
    exact inv_of_result rfl rfl (hexWf_hexStr _ _)
  | litStatus => cases h; exact inv_of_result rfl rfl (hexWf_litStatus _)
  | litSettings => cases h; exact inv_of_result rfl rfl (hexWf_litSettings _)
  | litAutoOn => cases h; exact inv_of_result rfl rfl (hexWf_litAutoOn _)
  | litAutoOff => cases h; exact inv_of_result rfl rfl (hexWf_litAutoOff _)
  | decSt values =>
    simp only [effectOf] at h
    split at h <;> cases h
    · exact inv_of_result rfl rfl (recordWf_recordOf _ _)
    · exact inv_of_res_none rfl
  | prgDec bytes42 =>
    simp only [effectOf] at h
    split at h <;> cases h
    · refine inv_of_result rfl rfl ?_
      rw [resultWf, weekShaped_daysOf, weekChars_daysOf, Bool.and_self]
    · exact inv_of_res_none rfl
  | prgEnc days =>
    simp only [effectOf] at h
    split at h
    · split at h <;> cases h
      · exact inv_of_result rfl rfl (by simp [resultWf, bytesOf_length])
      · exact inv_of_res_none rfl
    · cases h
      exact inv_of_res_none rfl
  | _ => cases h

/-- Settles O57: `RES` holds none at reset. -/
theorem invariantAtReset : Obligations.InvariantAtReset := inv_of_res_none rfl

/-- Settles O58: a step that runs no operation leaves `ST` and `RES` or resets them, and an
operation leaves an effect that meets the invariant. -/
theorem stepKeepsInvariant : Obligations.StepKeepsInvariant := by
  intro s t hs h
  obtain rfl | ⟨e, rest, -, hevent⟩ := step_cases h
  · exact hs
  · obtain rfl | rfl | ⟨r, i, -, -, hexec⟩ := hostEvent_cases hevent
    · exact hs
    · exact inv_of_res_none rfl
    · obtain ⟨e, he, rfl⟩ := (exec_eq_next_iff i _ t).mp hexec
      exact inv_apply_of_effectOf he

end Sys2Proof.Machine
end
